-- ==== Sys2Proof/Word.lean ====
section
/-! DEFINITION. The words of the block: the widths 00_scope.md R6, 10_state.md R22, 20_memory.md R61 and
30_encoding.md R78 give its values. -/

namespace Sys2Proof

/-- A packet byte, a chip register value or a key shadow (u8). -/
abbrev Byte := BitVec 8

/-- A chip register address (u16, 20_memory.md R51). -/
abbrev Addr := BitVec 16

/-- A track id (u16; `TRACK_BITS` is fixed at 16 by 00_scope.md R6). -/
abbrev TrackId := BitVec 16

/-- An acquisition timestamp (u32; `TS_BITS` is fixed at 32 by 00_scope.md R6), compared as an unsigned
number (10_state.md R26). -/
abbrev Stamp := BitVec 32

/-- One chip sample, a signed 16-bit integer in two's complement (20_memory.md R61). -/
abbrev Sample := BitVec 16

/-- The bit pattern of one binary32 host sample (20_memory.md R61). -/
abbrev F32 := BitVec 32

/-- A hardware channel, index 0..8 (`NUM_CHANNELS` is fixed at 9 by 00_scope.md R6). -/
abbrev Channel := Fin 9

/-- A MIDI note in 0..127, the index of `FREQ_TABLE` (42_engine.md R190, R193). -/
abbrev Note := Fin 128

end Sys2Proof
end

