-- ==== Sys2Proof/Syntax.lean ====
section
/-! DEFINITION. The instructions of the block: the eleven command packets, the audio callback RENDER, and the
packet that does not decode (30_encoding.md R80, R81, R90; opcode_table.json). -/

namespace Sys2Proof

/-- A note identity, the pair (track, note), compared by equality only (10_state.md R25). -/
structure NoteId where
  track : TrackId
  note : Byte
deriving DecidableEq, Repr

/-- A decoded operator: eight numeric bytes kept whole, and four flags (30_encoding.md R84, R85). -/
structure Operator where
  attack : Byte
  decay : Byte
  sustain : Byte
  release : Byte
  multiplier : Byte
  waveform : Byte
  outputLevel : Byte
  keyScaleLevel : Byte
  tremolo : Bool
  vibrato : Bool
  sustaining : Bool
  keyScaleRate : Bool
deriving DecidableEq, Repr

/-- The connection mode of a voice (30_encoding.md R83). -/
inductive Connection where
  | fm
  | additive
deriving DecidableEq, Repr

/-- A decoded voice (30_encoding.md R85). `baseNoteOffset` is an s8: its bits are read in two's complement. -/
structure Voice where
  mod : Operator
  car : Operator
  feedback : Byte
  connection : Connection
  baseNoteOffset : Byte
deriving DecidableEq, Repr

/-- A decoded patch (30_encoding.md R85): `voice2` is present exactly when flags bit 1 is 1. -/
structure Patch where
  dualVoiceEnabled : Bool
  voice1 : Voice
  voice2 : Option Voice
deriving DecidableEq, Repr

/-- One constructor for each row of opcode_table.json. -/
inductive Instr where
  /-- 0x01 NOTE_ON (42_engine.md R184). -/
  | noteOn (track : TrackId) (note : Byte) (velocity : Byte) (now : Stamp) (patch : Patch)
  /-- 0x02 NOTE_OFF (42_engine.md R198). -/
  | noteOff (track : TrackId) (note : Byte)
  /-- 0x03 ALL_NOTES_OFF (42_engine.md R202). -/
  | allNotesOff
  /-- 0x04 GET_CHANNEL_STATS (42_engine.md R205). -/
  | getChannelStats
  /-- 0x05 LOAD_PATCH (42_engine.md R207). -/
  | loadPatch (channel : Byte) (patch : Patch)
  /-- 0x10 ALLOC_CHANNEL (41_allocator.md R145). -/
  | allocChannel (id : NoteId) (now : Stamp)
  /-- 0x11 ALLOC_DUAL (41_allocator.md R152). -/
  | allocDual (id : NoteId) (now : Stamp)
  /-- 0x12 RELEASE_NOTE (41_allocator.md R158). -/
  | releaseNote (id : NoteId)
  /-- 0x13 GET_STATS (41_allocator.md R161). -/
  | getStats
  /-- 0x14 GET_ALLOCATION (41_allocator.md R163). -/
  | getAllocation (id : NoteId)
  /-- 0x15 RESET_ALLOCATOR (41_allocator.md R166). -/
  | resetAllocator
  /-- RENDER, the audio callback, which is no packet (43_bridge.md R218). -/
  | render
  /-- The row of reserved opcodes, empty packets and wrong lengths (30_encoding.md R90): the first byte
  (0xFF when there is none) and the length of a packet that does not decode. -/
  | illegal (opcode : Byte) (length : Nat)
deriving DecidableEq, Repr

/-- A framed command packet: a byte string delivered with its length (30_encoding.md R77). -/
abbrev Packet := List Byte

/-- What the host does to the block to make it run one instruction (70_reset_and_hazards.md R277): it sends a
packet, or it calls the audio callback. -/
inductive HostInput where
  | packet (bytes : Packet)
  | renderCall
deriving DecidableEq, Repr

end Sys2Proof
end

