-- ==== Sys2Proof/Decode.lean ====
section
/-! DEFINITION. The packet decoder, total on every byte string, and after it the encoder of the same layouts
(30_encoding.md R77 to R90). -/

namespace Sys2Proof

/-! ## Opcode map -/

/-- The fixed length of each defined opcode; `none` for a reserved one (30_encoding.md R80). -/
def opcodeLength (op : Byte) : Option Nat :=
  match op.toNat with
  | 0x01 => some 52
  | 0x02 => some 4
  | 0x03 => some 1
  | 0x04 => some 1
  | 0x05 => some 45
  | 0x10 => some 8
  | 0x11 => some 8
  | 0x12 => some 4
  | 0x13 => some 1
  | 0x14 => some 4
  | 0x15 => some 1
  | _ => none

/-- Why a packet does not decode (30_encoding.md R77). -/
inductive DecodeError where
  | emptyPacket
  | reservedOpcode (opcode : Byte)
  | wrongLength (opcode : Byte) (length : Nat)
deriving DecidableEq, Repr

/-! ## Fields -/

/-- Byte `k` of a packet. A packet of its opcode's length has every byte the layouts name; beyond its end
nothing is read, and the answer 0 is only the function's default. -/
def byteAt (p : Packet) (k : Nat) : Byte := p.getD k 0

/-- Little-endian u16 at `k` (30_encoding.md R78). -/
def u16At (p : Packet) (k : Nat) : BitVec 16 := byteAt p (k + 1) ++ byteAt p k

/-- Little-endian u32 at `k` (30_encoding.md R78). -/
def u32At (p : Packet) (k : Nat) : BitVec 32 :=
  byteAt p (k + 3) ++ byteAt p (k + 2) ++ byteAt p (k + 1) ++ byteAt p k

/-- A NoteId field: track u16, then the note byte (30_encoding.md R79). -/
def noteIdAt (p : Packet) (k : Nat) : NoteId := { track := u16At p k, note := byteAt p (k + 2) }

/-- Bit `b` of a byte as a flag. -/
def flagBit (x : Byte) (b : Nat) : Bool := x.getLsbD b

/-- The operator image of 9 bytes at `k`; flag bits 7:4 are ignored (30_encoding.md R84, R89). -/
def operatorAt (p : Packet) (k : Nat) : Operator where
  attack := byteAt p k
  decay := byteAt p (k + 1)
  sustain := byteAt p (k + 2)
  release := byteAt p (k + 3)
  multiplier := byteAt p (k + 4)
  waveform := byteAt p (k + 5)
  outputLevel := byteAt p (k + 6)
  keyScaleLevel := byteAt p (k + 7)
  tremolo := flagBit (byteAt p (k + 8)) 0
  vibrato := flagBit (byteAt p (k + 8)) 1
  sustaining := flagBit (byteAt p (k + 8)) 2
  keyScaleRate := flagBit (byteAt p (k + 8)) 3

/-- Connection byte: bit 0 clear is `fm`, set is `additive`; bits 7:1 are ignored (30_encoding.md R83, R89). -/
def connectionOf (x : Byte) : Connection := if flagBit x 0 then .additive else .fm

/-- The voice image of 21 bytes at `k` (30_encoding.md R83). -/
def voiceAt (p : Packet) (k : Nat) : Voice where
  mod := operatorAt p k
  car := operatorAt p (k + 9)
  feedback := byteAt p (k + 18)
  connection := connectionOf (byteAt p (k + 19))
  baseNoteOffset := byteAt p (k + 20)

/-- The patch image of 43 bytes at `k` (30_encoding.md R82, R85); flag bits 7:2 are ignored (R89). -/
def patchAt (p : Packet) (k : Nat) : Patch where
  dualVoiceEnabled := flagBit (byteAt p k) 0
  voice1 := voiceAt p (k + 1)
  voice2 := if flagBit (byteAt p k) 1 then some (voiceAt p (k + 22)) else none

/-! ## Decoder -/

/-- The command of a packet whose opcode is defined and whose length is the opcode's (30_encoding.md R81). -/
def readCommand (op : Byte) (p : Packet) : Instr :=
  match op.toNat with
  | 0x01 => .noteOn (u16At p 1) (byteAt p 3) (byteAt p 4) (u32At p 5) (patchAt p 9)
  | 0x02 => .noteOff (u16At p 1) (byteAt p 3)
  | 0x03 => .allNotesOff
  | 0x04 => .getChannelStats
  | 0x05 => .loadPatch (byteAt p 1) (patchAt p 2)
  | 0x10 => .allocChannel (noteIdAt p 1) (u32At p 4)
  | 0x11 => .allocDual (noteIdAt p 1) (u32At p 4)
  | 0x12 => .releaseNote (noteIdAt p 1)
  | 0x13 => .getStats
  | 0x14 => .getAllocation (noteIdAt p 1)
  | 0x15 => .resetAllocator
  | _ => .illegal op p.length

/-- Classify a packet before any command runs: empty, reserved opcode, wrong length, or the command
(30_encoding.md R77; 60_exceptions.md R245). -/
def decodeCommand (p : Packet) : Except DecodeError Instr :=
  match p with
  | [] => .error .emptyPacket
  | op :: _ =>
    match opcodeLength op with
    | none => .error (.reservedOpcode op)
    | some n => if p.length = n then .ok (readCommand op p) else .error (.wrongLength op p.length)

/-- The decoder, total on any byte string: what does not decode is ILLEGAL_COMMAND with the opcode byte (0xFF if
the packet is empty) and the length (30_encoding.md R77, R90). -/
def decode (p : Packet) : Instr :=
  match decodeCommand p with
  | .ok i => i
  | .error _ => .illegal (p.headD 0xFF) p.length

/-- The instruction a host input stands for: a packet is decoded, the callback is RENDER
(30_encoding.md R80). -/
def decodeInput : HostInput → Instr
  | .packet p => decode p
  | .renderCall => .render

/-! ## Encoder -/

/-- The bytes of a u16, low byte first (30_encoding.md R78). -/
def bytes16 (x : BitVec 16) : List Byte := [x.extractLsb' 0 8, x.extractLsb' 8 8]

/-- The bytes of a u32, low byte first (30_encoding.md R78). -/
def bytes32 (x : BitVec 32) : List Byte :=
  [x.extractLsb' 0 8, x.extractLsb' 8 8, x.extractLsb' 16 8, x.extractLsb' 24 8]

/-- The 3 bytes of a NoteId field (30_encoding.md R79). -/
def bytesNoteId (id : NoteId) : List Byte := bytes16 id.track ++ [id.note]

/-- One flag as a byte with its bit at position `b`. -/
def flagByte (f : Bool) (b : Nat) : Byte := if f then 1#8 <<< b else 0#8

/-- The 9 bytes of an operator image, reserved bits 0 (30_encoding.md R84). -/
def bytesOperator (o : Operator) : List Byte :=
  [o.attack, o.decay, o.sustain, o.release, o.multiplier, o.waveform, o.outputLevel, o.keyScaleLevel,
    flagByte o.tremolo 0 ||| flagByte o.vibrato 1 ||| flagByte o.sustaining 2 ||| flagByte o.keyScaleRate 3]

/-- The connection byte, reserved bits 0 (30_encoding.md R83). -/
def byteConnection : Connection → Byte
  | .fm => 0
  | .additive => 1

/-- The 21 bytes of a voice image (30_encoding.md R83). -/
def bytesVoice (v : Voice) : List Byte :=
  bytesOperator v.mod ++ bytesOperator v.car ++ [v.feedback, byteConnection v.connection, v.baseNoteOffset]

/-- The 21 bytes of the second voice image; an absent voice is 21 zero bytes (30_encoding.md R82). -/
def bytesVoice2 : Option Voice → List Byte
  | some v => bytesVoice v
  | none => List.replicate 21 0

/-- The 43 bytes of a patch image, reserved bits 0 (30_encoding.md R82). -/
def bytesPatch (p : Patch) : List Byte :=
  [flagByte p.dualVoiceEnabled 0 ||| flagByte p.voice2.isSome 1] ++ bytesVoice p.voice1 ++ bytesVoice2 p.voice2

/-- A packet that does not decode, of the given first byte and length: the other bytes are 0, since no rule
reads them (30_encoding.md R90). -/
def bytesIllegal (op : Byte) : Nat → Packet
  | 0 => []
  | n + 1 => op :: List.replicate n 0

/-- What the host does to have a well-formed instruction run (30_encoding.md R81; RENDER is the callback). -/
def encode : Instr → HostInput
  | .noteOn track note velocity now patch =>
    .packet (0x01#8 :: bytes16 track ++ [note, velocity] ++ bytes32 now ++ bytesPatch patch)
  | .noteOff track note => .packet (0x02#8 :: bytes16 track ++ [note])
  | .allNotesOff => .packet [0x03#8]
  | .getChannelStats => .packet [0x04#8]
  | .loadPatch channel patch => .packet (0x05#8 :: channel :: bytesPatch patch)
  | .allocChannel id now => .packet (0x10#8 :: bytesNoteId id ++ bytes32 now)
  | .allocDual id now => .packet (0x11#8 :: bytesNoteId id ++ bytes32 now)
  | .releaseNote id => .packet (0x12#8 :: bytesNoteId id)
  | .getStats => .packet [0x13#8]
  | .getAllocation id => .packet (0x14#8 :: bytesNoteId id)
  | .resetAllocator => .packet [0x15#8]
  | .render => .renderCall
  | .illegal op n => .packet (bytesIllegal op n)

/-! ## The opcode table's words -/

/-- The low `nbits` bits of `w` as bytes, bit 0 in the first byte (the numbering of opcode_table.json). -/
def tableBytes (nbits w : Nat) : List Byte :=
  (List.range ((nbits + 7) / 8)).map fun k => BitVec.ofNat 8 (w >>> (8 * k))

/-- Zero bytes up to the opcode's fixed length, for a table word shorter than its packet. -/
def padToLength (p : Packet) : Packet :=
  p ++ List.replicate ((opcodeLength (p.headD 0)).getD p.length - p.length) 0

/-- The host input a table word stands for. A row of no bits is RENDER's, the one row that is no packet
(30_encoding.md R80). -/
def tableInput (nbits w : Nat) : HostInput :=
  if nbits = 0 then .renderCall else .packet (padToLength (tableBytes nbits w))

/-- The instruction the decoder reads from a table word. The decoder refuses no packet
(60_exceptions.md R245), so the answer is never `none`. -/
def decodeTableWord (nbits w : Nat) : Option Instr := some (decodeInput (tableInput nbits w))

end Sys2Proof
end

