-- ==== Sys2Proof/Config.lean ====
section
/-! DEFINITION. The build-time parameters of 00_scope.md R6, and the free value: what the chip collaborator
answers (43_bridge.md R216). The default values are in Machine/Defaults.lean. -/

namespace Sys2Proof

/-- `DUAL_STEAL_POLICY` (41_allocator.md R148). -/
inductive StealPolicy where
  /-- Evict single-voice allocations first, then any. -/
  | anyType
  /-- Evict single-voice allocations only. -/
  | singleOnly
deriving DecidableEq, Repr

/-- `REGMAP`: the operator slot table, the register bases, and the lowest bit of every field whose position the
document does not fix (30_encoding.md R96 to R101, R103; 40_encoder.md R114). The feedback/connection byte and
the F-number low byte have no parameter (R102, R103). -/
structure RegMap where
  slot : Vector (Byte × Byte) 9
  charBase : Addr
  levelBase : Addr
  adBase : Addr
  srBase : Addr
  waveBase : Addr
  fnumLoBase : Addr
  keyBase : Addr
  fbcntBase : Addr
  tremoloBit : Nat
  vibratoBit : Nat
  sustainingBit : Nat
  keyScaleRateBit : Nat
  multiplierBit : Nat
  keyScaleLevelBit : Nat
  outputLevelBit : Nat
  attackBit : Nat
  decayBit : Nat
  sustainBit : Nat
  releaseBit : Nat
  waveformBit : Nat
  keyOnBit : Nat
  blockBit : Nat
  fnumHiBit : Nat
deriving DecidableEq, Repr

/-- One entry of `FREQ_TABLE`: block, F-number, and whether it is the fallback (42_engine.md R191, R193). -/
structure FreqEntry where
  block : BitVec 3
  fnum : BitVec 10
  fallback : Bool
deriving DecidableEq, Repr

/-- The parameters of 00_scope.md R6 that are not fixed. -/
structure Config where
  /-- `MAX_CHIP_CHUNK` -/
  maxChipChunk : Nat
  /-- `HOST_BUFFER_LEN` -/
  hostBufferLen : Nat
  /-- `SAMPLE_CLOCK`, a whole number of Hz, 0 included. DESIGN CHOICE, log 21: the spec gives a unit and a default and no
  type. -/
  sampleClock : Nat
  /-- `FREQ_TABLE` -/
  freqTable : Vector FreqEntry 128
  /-- `REGMAP` -/
  regmap : RegMap
  /-- `DUAL_STEAL_POLICY` -/
  dualStealPolicy : StealPolicy
  /-- `WQ_DEPTH` -/
  wqDepth : Nat
deriving DecidableEq, Repr

/-- What R7 and R8 of 00_scope.md demand of the parameters. -/
def Config.wellFormed (c : Config) : Bool := 26 ≤ c.wqDepth && 1 ≤ c.maxChipChunk

/-- One thing the block does to the chip collaborator (43_bridge.md R216, R233). -/
inductive ChipEvent where
  | write (addr : Addr) (val : Byte)
  | generate (n : Nat)
deriving DecidableEq, Repr

/-- FREE VALUE. The samples the collaborator returns from `chipGenerate(n)` after the given input history: any
collaborator, whatever its states and its initial state, is such a function, and the block places no law on it
(43_bridge.md R216, R233; 93_implementation_defined.md U11, U12). The result type fixes the count (R217). It
has no body, so nothing can be proved of a sample. -/
opaque Config.chipGenerate (history : List ChipEvent) (n : Nat) : Vector Sample n

end Sys2Proof
end

