-- ==== Sys2Proof/Machine/Defaults.lean ====
section
/-! DEFINITION. The default parameters of the reference instantiation (00_scope.md R6): the default `REGMAP`
(30_encoding.md R96 to R103) and the default `FREQ_TABLE` (42_engine.md R193), and the formula behind that table
(42_engine.md R191, R192). -/

namespace Sys2Proof

/-! ## REGMAP -/

/-- The default operator slot table, (modulator, carrier) of each channel: a table, not arithmetic
(30_encoding.md R96). -/
def slotTableDefault : Vector (Byte × Byte) 9 :=
  #v[(0x00, 0x03), (0x01, 0x04), (0x02, 0x05), (0x08, 0x0B), (0x09, 0x0C), (0x0A, 0x0D),
     (0x10, 0x13), (0x11, 0x14), (0x12, 0x15)]

/-- The default `REGMAP` (30_encoding.md R96 to R101, R103). DESIGN CHOICE, log 2: the spec's own default, which
it marks as general knowledge. -/
def regmapDefault : RegMap where
  slot := slotTableDefault
  charBase := 0x20
  levelBase := 0x40
  adBase := 0x60
  srBase := 0x80
  waveBase := 0xE0
  fnumLoBase := 0xA0
  keyBase := 0xB0
  fbcntBase := 0xC0
  tremoloBit := 7
  vibratoBit := 6
  sustainingBit := 5
  keyScaleRateBit := 4
  multiplierBit := 0
  keyScaleLevelBit := 6
  outputLevelBit := 0
  attackBit := 4
  decayBit := 0
  sustainBit := 4
  releaseBit := 0
  waveformBit := 0
  keyOnBit := 5
  blockBit := 2
  fnumHiBit := 0

/-! ## FREQ_TABLE -/

/-- A valid entry of the table. -/
def fe (block fnum : Nat) : FreqEntry :=
  { block := BitVec.ofNat 3 block, fnum := BitVec.ofNat 10 fnum, fallback := false }

/-- The fallback entry `(0, 0, true)` (42_engine.md R191, R194). -/
def fb : FreqEntry := { block := 0, fnum := 0, fallback := true }

/-- Notes 0 to 15 of `FREQ_TABLE` (42_engine.md R193). -/
def freqRows0 : List FreqEntry :=
  [fe 0 172, fe 0 183, fe 0 194, fe 0 205, fe 0 217, fe 0 230, fe 0 244, fe 0 258,
   fe 0 274, fe 0 290, fe 0 307, fe 0 326, fe 0 345, fe 0 365, fe 0 387, fe 0 410]

/-- Notes 16 to 31 of `FREQ_TABLE` (42_engine.md R193). -/
def freqRows16 : List FreqEntry :=
  [fe 0 435, fe 0 460, fe 0 488, fe 0 517, fe 0 547, fe 0 580, fe 0 615, fe 0 651,
   fe 0 690, fe 0 731, fe 0 774, fe 0 820, fe 0 869, fe 0 921, fe 0 975, fe 1 517]

/-- Notes 32 to 47 of `FREQ_TABLE` (42_engine.md R193). -/
def freqRows32 : List FreqEntry :=
  [fe 1 547, fe 1 580, fe 1 615, fe 1 651, fe 1 690, fe 1 731, fe 1 774, fe 1 820,
   fe 1 869, fe 1 921, fe 1 975, fe 2 517, fe 2 547, fe 2 580, fe 2 615, fe 2 651]

/-- Notes 48 to 63 of `FREQ_TABLE` (42_engine.md R193). -/
def freqRows48 : List FreqEntry :=
  [fe 2 690, fe 2 731, fe 2 774, fe 2 820, fe 2 869, fe 2 921, fe 2 975, fe 3 517,
   fe 3 547, fe 3 580, fe 3 615, fe 3 651, fe 3 690, fe 3 731, fe 3 774, fe 3 820]

/-- Notes 64 to 79 of `FREQ_TABLE` (42_engine.md R193). -/
def freqRows64 : List FreqEntry :=
  [fe 3 869, fe 3 921, fe 3 975, fe 4 517, fe 4 547, fe 4 580, fe 4 615, fe 4 651,
   fe 4 690, fe 4 731, fe 4 774, fe 4 820, fe 4 869, fe 4 921, fe 4 975, fe 5 517]

/-- Notes 80 to 95 of `FREQ_TABLE` (42_engine.md R193). -/
def freqRows80 : List FreqEntry :=
  [fe 5 547, fe 5 580, fe 5 615, fe 5 651, fe 5 690, fe 5 731, fe 5 774, fe 5 820,
   fe 5 869, fe 5 921, fe 5 975, fe 6 517, fe 6 547, fe 6 580, fe 6 615, fe 6 651]

/-- Notes 96 to 111 of `FREQ_TABLE` (42_engine.md R193). -/
def freqRows96 : List FreqEntry :=
  [fe 6 690, fe 6 731, fe 6 774, fe 6 820, fe 6 869, fe 6 921, fe 6 975, fe 7 517,
   fe 7 547, fe 7 580, fe 7 615, fe 7 651, fe 7 690, fe 7 731, fe 7 774, fe 7 820]

/-- Notes 112 to 127 of `FREQ_TABLE` (42_engine.md R193). -/
def freqRows112 : List FreqEntry :=
  [fe 7 869, fe 7 921, fe 7 975, fb, fb, fb, fb, fb,
   fb, fb, fb, fb, fb, fb, fb, fb]

/-- The default `FREQ_TABLE`, notes 0 to 127 in order (42_engine.md R193). -/
def freqRows : List FreqEntry :=
  freqRows0 ++ freqRows16 ++ freqRows32 ++ freqRows48 ++ freqRows64 ++ freqRows80 ++ freqRows96 ++ freqRows112

/-- The default `FREQ_TABLE` (42_engine.md R193). -/
def freqTableDefault : Vector FreqEntry 128 := ⟨freqRows.toArray, rfl⟩

/-! ## The frequency formula

DEDUCED, log 18: the formula is evaluated in exact arithmetic. With
`x = 440 · 2^((e − 69)/12) · 2^(20 − b) / clock`, `round(x) = floor(x + 1/2)` is at least `f` exactly when
`2f − 1 ≤ 2x`, and both sides may be raised to the twelfth power, which leaves integers. -/

/-- Whether `2x < k`, for note `e` and block `b` (42_engine.md R191). -/
def twiceXBelow (clock e b k : Nat) : Bool :=
  2 ^ 12 * 440 ^ 12 * 2 ^ (e + 12 * (20 - b)) < k ^ 12 * clock ^ 12 * 2 ^ 69

/-- `round(x)`, when it is at most 1023, bit by bit from the highest: the largest `f` with `2f − 1 ≤ 2x`
(42_engine.md R192). -/
def fnumSearch (clock e b : Nat) : Nat → Nat → Nat
  | 0, f => f
  | k + 1, f =>
    fnumSearch clock e b k (if twiceXBelow clock e b (2 * (f + 2 ^ k) - 1) then f else f + 2 ^ k)

/-- Try the given number of blocks upward from `b`; the first whose rounded F-number is at most 1023 is taken,
and with none left the entry is the fallback (42_engine.md R191). -/
def freqWordFrom (clock e : Nat) : Nat → Nat → FreqEntry
  | 0, _ => fb
  | n + 1, b =>
    if twiceXBelow clock e b 2047 then fe b (fnumSearch clock e b 10 0) else freqWordFrom clock e n (b + 1)

/-- `freqWord(e)` for a sample clock (42_engine.md R191). -/
def freqWord (clock e : Nat) : FreqEntry := freqWordFrom clock e 8 0

/-- `dec(b, f) = f · SAMPLE_CLOCK / 2^(20 − b)`, the frequency in Hz an entry stands for (42_engine.md R195). -/
def decodedFrequency (clock : Nat) (e : FreqEntry) : ℚ :=
  e.fnum.toNat * clock / 2 ^ (20 - e.block.toNat)

/-! ## The reference instantiation -/

/-- The default value of every parameter (00_scope.md R6). -/
def configDefault : Config where
  maxChipChunk := 512
  hostBufferLen := 4096
  sampleClock := 49716
  freqTable := freqTableDefault
  regmap := regmapDefault
  dualStealPolicy := .anyType
  wqDepth := 256

end Sys2Proof
end

