-- ==== Sys2Proof/Machine/State.lean ====
section
/-! DEFINITION. The state of the block (10_state.md), plain data, and its value after power-on reset. -/

namespace Sys2Proof.Machine

/-! ## Reasons a step can stop -/

/-- The block has no fault state: no command, packet or callback can fault (60_exceptions.md R242, R245;
43_bridge.md R227). So there is no constructor, and nothing raises one. -/
inductive Fault where
deriving DecidableEq, Repr

/-- Why a step has no meaning. -/
inductive Refusal where
  /-- An instruction whose arm of `exec` has no meaning yet; raised by `exec` alone, and safe, since the step
  stops. No arm raises it: every instruction has its meaning. -/
  | notModelled (mnemonic : String)
deriving DecidableEq, Repr

/-! ## The slot arena and the key shadow -/

/-- One channel slot (10_state.md R22). -/
structure Slot where
  busy : Bool
  owner : NoteId
  stamp : Stamp
  dual : Bool
deriving DecidableEq, Repr

/-- A free slot as every release leaves it (10_state.md R45). -/
abbrev Slot.free : Slot := { busy := false, owner := { track := 0, note := 0 }, stamp := 0, dual := false }

/-- The channel slot arena `slot[0..8]` (10_state.md R22). -/
abbrev Arena := Vector Slot 9

/-- The key shadow `keyshadow[0..8]` (10_state.md R28). -/
abbrev KeyShadow := Vector Byte 9

/-! ## Streams and logs -/

/-- One chip register write, an indivisible pair (20_memory.md R61). -/
structure RegWrite where
  addr : Addr
  val : Byte
deriving DecidableEq, Repr

/-- The operand an INVALID_INPUT record names (60_exceptions.md R243). -/
inductive InputField where
  | note
  | channel
deriving DecidableEq, Repr

/-- A diagnostic record: its code and its info (60_exceptions.md R243). -/
inductive Diag where
  /-- 0x01 -/
  | invalidInput (opcode : Byte) (field : InputField) (value : Byte)
  /-- 0x02 -/
  | illegalCommand (opcode : Byte) (length : Nat)
  /-- 0x03 -/
  | allocFailed (id : NoteId)
  /-- 0x04 -/
  | degraded (id : NoteId) (channel : Channel)
  /-- 0x05; `note` is the effective note -/
  | freqFallback (channel : Channel) (note : Note)
deriving DecidableEq, Repr

/-- A response: the status byte and the payload (30_encoding.md R91, R92). -/
abbrev Response := List Byte

/-- The block's two agents (20_memory.md R60). -/
inductive Agent where
  | control
  | audio
deriving DecidableEq, Repr

/-- One host output buffer: (index, binary32) pairs, indices strictly rising. The unit of this space is one
binary32 element (20_memory.md R51, R55), so an entry is an element and no byte. An index not listed has no
value: nothing has written it (93_implementation_defined.md U14; log 10). -/
abbrev Memory := List (Nat × F32)

/-- The canonical form of a host buffer: indices strictly rise. (No listed entry can equal what an unlisted index
reads as, since that is no value.) -/
abbrev Memory.wf (m : Memory) : Prop := m.Pairwise fun p q => p.1 < q.1

/-! ## State -/

/-- The state. `slots`, `keyshadow`, `wq`, `chipLog`, `diag` and `resp` are the block's own (10_state.md R21). `chip`,
`bufL` and `bufR` stand for what the spec names outside the block (R35, R38). `cfg`, `port` and `turns` are the
model's own fields (log 1, log 5, log 6). -/
structure State where
  /-- The build-time parameters, which no step writes (10_state.md R41). -/
  cfg : Config
  /-- `slot[0..8]` (10_state.md R22) -/
  slots : Arena
  /-- `keyshadow[0..8]` (10_state.md R28) -/
  keyshadow : KeyShadow
  /-- `WQ`, oldest entry first (10_state.md R31) -/
  wq : List RegWrite
  /-- `chipLog`, in delivery order (10_state.md R34) -/
  chipLog : List RegWrite
  /-- `diag`, in the order raised (10_state.md R36) -/
  diag : List Diag
  /-- `resp`, in consumption order (10_state.md R37) -/
  resp : List Response
  /-- The chip collaborator's input history, which stands for `ChipState` (10_state.md R35; 43_bridge.md R233; log 9). -/
  chip : List ChipEvent
  /-- Host output buffer `L` (10_state.md R38) -/
  bufL : Memory
  /-- Host output buffer `R` (10_state.md R38) -/
  bufR : Memory
  /-- The packets waiting on the command port, oldest first (20_memory.md R53) -/
  port : List Packet
  /-- Whose step comes next, as the environment chose (20_memory.md R62) -/
  turns : List Agent
deriving DecidableEq, Repr

/-- The state right after power-on reset of a block built with parameters `c` (10_state.md R44;
70_reset_and_hazards.md R271). -/
def State.resetWith (c : Config) : State where
  cfg := c
  slots := Vector.replicate 9 Slot.free
  keyshadow := Vector.replicate 9 0
  wq := []
  chipLog := []
  diag := []
  resp := []
  chip := []
  bufL := []
  bufR := []
  port := []
  turns := []

/-- The state right after power-on reset of the reference instantiation (00_scope.md R6; 10_state.md R44). -/
def State.reset : State := State.resetWith configDefault

end Sys2Proof.Machine
end

