-- ==== Sys2Proof/Machine/Flags.lean ====
section
/-! DEFINITION. The block's flags and the register bytes it packs: the status byte of a response, the key-on flag, and
the fields of every register byte (10_state.md R43; 30_encoding.md R91, R98 to R103; 40_encoder.md R112). -/

namespace Sys2Proof.Machine

/-! ## Status byte -/

/-- The outcome of an allocation (41_allocator.md R144). -/
inductive AllocStatus where
  | ok
  | degraded
  | fail
deriving DecidableEq, Repr

/-- `status(outcome)` (30_encoding.md R91; 42_engine.md R184). -/
def AllocStatus.byte : AllocStatus → Byte
  | .ok => 0x00
  | .degraded => 0x01
  | .fail => 0x02

/-- Status OK (30_encoding.md R91). -/
def statusOk : Byte := 0x00

/-- Status INVALID_INPUT (30_encoding.md R91). -/
def statusInvalidInput : Byte := 0x03

/-- Status ILLEGAL_COMMAND (30_encoding.md R91). -/
def statusIllegalCommand : Byte := 0x04

/-- The code of a diagnostic record (60_exceptions.md R243). -/
def Diag.code : Diag → Byte
  | .invalidInput _ _ _ => 0x01
  | .illegalCommand _ _ => 0x02
  | .allocFailed _ => 0x03
  | .degraded _ _ => 0x04
  | .freqFallback _ _ => 0x05

/-! ## Register fields -/

/-- `mask_w(v) = v & (2^w − 1)` (40_encoder.md R112). -/
def maskTo (w : Nat) (v : Byte) : Byte := v &&& BitVec.ofNat 8 (2 ^ w - 1)

/-- A field of width `w` with its lowest bit at `pos`. -/
def fieldAt (w pos : Nat) (v : Byte) : Byte := maskTo w v <<< pos

/-- A one-bit field: 1 if set, 0 if clear (40_encoder.md R112). -/
def flagAt (pos : Nat) (f : Bool) : Byte := if f then 1#8 <<< pos else 0#8

/-- The characteristics byte (30_encoding.md R98; 40_encoder.md R113). -/
def charByte (m : RegMap) (o : Operator) : Byte :=
  flagAt m.tremoloBit o.tremolo ||| flagAt m.vibratoBit o.vibrato ||| flagAt m.sustainingBit o.sustaining |||
    flagAt m.keyScaleRateBit o.keyScaleRate ||| fieldAt 4 m.multiplierBit o.multiplier

/-- The level byte (30_encoding.md R99; 40_encoder.md R113). -/
def levelByte (m : RegMap) (o : Operator) : Byte :=
  fieldAt 2 m.keyScaleLevelBit o.keyScaleLevel ||| fieldAt 6 m.outputLevelBit o.outputLevel

/-- The attack/decay byte (30_encoding.md R100; 40_encoder.md R113). -/
def adByte (m : RegMap) (o : Operator) : Byte :=
  fieldAt 4 m.attackBit o.attack ||| fieldAt 4 m.decayBit o.decay

/-- The sustain/release byte (30_encoding.md R100; 40_encoder.md R113). -/
def srByte (m : RegMap) (o : Operator) : Byte :=
  fieldAt 4 m.sustainBit o.sustain ||| fieldAt 4 m.releaseBit o.release

/-- The waveform byte (30_encoding.md R100; 40_encoder.md R113). -/
def waveByte (m : RegMap) (o : Operator) : Byte := fieldAt 3 m.waveformBit o.waveform

/-- `cnt`: 1 for `fm`, 0 for `additive`, the document's polarity (30_encoding.md R102; 90_conflicts.md C5). -/
def cntBit : Connection → Byte
  | .fm => 1
  | .additive => 0

/-- `fbcnt(v)`; its layout is the document's and no parameter (30_encoding.md R102; 40_encoder.md R117). -/
def fbcntByte (v : Voice) : Byte := maskTo 3 v.feedback <<< 1 ||| cntBit v.connection

/-! ## Key byte -/

/-- The key-on bit alone, `0x20` in the default map (30_encoding.md R103; 42_engine.md R180). -/
def keyOnMask (m : RegMap) : Byte := 1#8 <<< m.keyOnBit

/-- The key byte of a key-on: key-on bit, block, F-number high bits (42_engine.md R180). -/
def keyOnByte (m : RegMap) (e : FreqEntry) : Byte :=
  keyOnMask m ||| e.block.setWidth 8 <<< m.blockBit ||| (e.fnum.extractLsb' 8 2).setWidth 8 <<< m.fnumHiBit

/-- The key byte of a key-off: the shadow with the key-on bit clear, `shadow & 0xDF` in the default map
(42_engine.md R181). -/
def keyOffByte (m : RegMap) (shadow : Byte) : Byte := shadow &&& ~~~keyOnMask m

/-- The F-number low byte (30_encoding.md R103; 42_engine.md R180). -/
def fnumLoByte (e : FreqEntry) : Byte := e.fnum.extractLsb' 0 8

/-- The key-on flag of a key shadow byte in the default map, bit 5 (10_state.md R30). -/
def keyOnFlag (shadow : Byte) : Bool := shadow.getLsbD 5

end Sys2Proof.Machine
end

