-- ==== Sys2Proof/Machine/Ops.lean ====
section
/-! DEFINITION. The named operations over the arena, the write queue, the logs and the host buffers, and the two
ways a command ends: commit and abort (00_scope.md R10; 10_state.md R24, R29, R39, R40; 41_allocator.md R138 to R143;
60_exceptions.md R246). The block has no trap entry and no trap return (60_exceptions.md R255): `Plan.abort` is its one
shared error exit. -/

namespace Sys2Proof.Machine

/-! ## The slot arena -/

/-- The channels 0..8, ascending. -/
def channels : List Channel := [0, 1, 2, 3, 4, 5, 6, 7, 8]

/-- `slot[i] <- v` (00_scope.md R10). -/
def Arena.put (a : Arena) (c : Channel) (x : Slot) : Arena := a.set c x

/-- The channels a note identity holds, ascending (10_state.md R24; 41_allocator.md R139). -/
def Arena.owned (a : Arena) (id : NoteId) : List Channel :=
  channels.filter fun c => a[c].busy && a[c].owner == id

/-- The view of one note identity's allocation (10_state.md R24). -/
structure Allocation where
  noteId : NoteId
  channels : List Channel
  timestamp : Stamp
  isDualVoice : Bool
deriving DecidableEq, Repr

/-- `alloc(id)` (10_state.md R24). -/
def Arena.alloc (a : Arena) (id : NoteId) : Option Allocation :=
  match Arena.owned a id with
  | [] => none
  | c :: cs =>
    some { noteId := id, channels := c :: cs, timestamp := a[c].stamp, isDualVoice := a[c].dual }

/-- `live`: the allocation of every owner of a busy slot, taken at its lowest channel, in channel order
(10_state.md R24). -/
def Arena.live (a : Arena) : List Allocation :=
  channels.filterMap fun c =>
    if a[c].busy then (Arena.alloc a a[c].owner).filter fun x => x.channels.head? == some c else none

/-- `freeSet()`, ascending (41_allocator.md R138). -/
def Arena.freeSet (a : Arena) : List Channel := channels.filter fun c => !a[c].busy

/-- `free` (10_state.md R39). -/
def Arena.free (a : Arena) : Nat := (channels.filter fun c => !a[c].busy).length

/-- `allocated` (10_state.md R39). -/
def Arena.allocated (a : Arena) : Nat := (channels.filter fun c => a[c].busy).length

/-- `dualVoiceNoteCount`, degraded allocations included (10_state.md R39). -/
def Arena.dualVoiceNoteCount (a : Arena) : Nat := ((Arena.live a).filter fun x => x.isDualVoice).length

/-- `slot[i] <- v` for every `i` of a list, in its order. -/
def Arena.putAll (a : Arena) (cs : List Channel) (x : Slot) : Arena :=
  cs.foldl (fun a c => Arena.put a c x) a

/-- `release(id)`: free every channel the identity holds (41_allocator.md R139; 10_state.md R45). The list it
returns is `Arena.owned a id`. -/
def Arena.release (a : Arena) (id : NoteId) : Arena := Arena.putAll a (Arena.owned a id) Slot.free

/-- `grant(id, C, now, dual)` (41_allocator.md R140). -/
def Arena.grant (a : Arena) (id : NoteId) (cs : List Channel) (now : Stamp) (dual : Bool) : Arena :=
  Arena.putAll a cs { busy := true, owner := id, stamp := now, dual := dual }

/-- Every slot freed (41_allocator.md R166). -/
def Arena.clear (a : Arena) : Arena := Arena.putAll a channels Slot.free

/-! ## Eviction order -/

/-- `channels[0]` of an allocation; a live allocation has one. -/
def Allocation.lowest (x : Allocation) : Channel := x.channels.headD 0

/-- The order of eviction keys: older stamp first, then lower lowest channel (41_allocator.md R141). -/
def Allocation.keyLt (x y : Allocation) : Bool :=
  x.timestamp < y.timestamp || (x.timestamp == y.timestamp && x.lowest < y.lowest)

/-- The element of a list of allocations with the least eviction key. -/
def leastKey : List Allocation → Option Allocation
  | [] => none
  | x :: xs =>
    match leastKey xs with
    | none => some x
    | some y => if y.keyLt x then some y else some x

/-- `oldest(P)`: the live allocation with the least key among those satisfying `P`; none if none does
(41_allocator.md R142). -/
def Arena.oldest (a : Arena) (P : Allocation → Bool) : Option Allocation := leastKey ((Arena.live a).filter P)

/-! ## A command's working copy -/

/-- What a command has done so far: its copies of the arena and the key shadow, the writes and diagnostics it has
appended, and its response (10_state.md R33, R40). Not state: it exists inside one command. -/
structure Plan where
  slots : Arena
  keyshadow : KeyShadow
  pending : List RegWrite
  diags : List Diag
  resp : Response
deriving DecidableEq, Repr

/-- A command starts from the state, with nothing emitted and nothing raised (10_state.md R33). -/
def Plan.start (s : State) : Plan where
  slots := s.slots
  keyshadow := s.keyshadow
  pending := []
  diags := []
  resp := []

/-- `Emit(addr, v)` to an address that is no key byte (00_scope.md R10). -/
def Plan.emit (p : Plan) (addr : Addr) (v : Byte) : Plan := { p with pending := p.pending ++ [⟨addr, v⟩] }

/-- A list of emits, in order. -/
def Plan.emitAll (p : Plan) (ws : List RegWrite) : Plan := { p with pending := p.pending ++ ws }

/-- The address of a channel's key byte, `KEY_BASE + c` (30_encoding.md R101). -/
def keyAddr (m : RegMap) (c : Channel) : Addr := m.keyBase + BitVec.ofNat 16 c

/-- `Emit(KEY_BASE + c, v)`, which also sets `keyshadow[c]` (10_state.md R29). -/
def Plan.emitKey (p : Plan) (m : RegMap) (c : Channel) (v : Byte) : Plan :=
  { p with pending := p.pending ++ [⟨keyAddr m c, v⟩], keyshadow := p.keyshadow.set c v }

/-- `raise Diag(code, info)`, which does not end the command (00_scope.md R10). -/
def Plan.raise (p : Plan) (d : Diag) : Plan := { p with diags := p.diags ++ [d] }

/-- `return Resp(status, payload)` (00_scope.md R10). -/
def Plan.reply (p : Plan) (r : Response) : Plan := { p with resp := r }

/-- `abort Resp(status)` after one diagnostic: every change is discarded but the response and that diagnostic
(60_exceptions.md R246). -/
def Plan.abort (s : State) (d : Diag) (status : Byte) : Plan := ((Plan.start s).raise d).reply [status]

/-! ## Admission and commit -/

/-- Admission: the writes fit in `WQ`, or there are none (20_memory.md R63). -/
abbrev admits (s : State) (p : Plan) : Prop := p.pending = [] ∨ s.wq.length + p.pending.length ≤ s.cfg.wqDepth

/-- The commit, one indivisible step, which also consumes the packet (10_state.md R40, R42). -/
def State.commit (s : State) (p : Plan) : State :=
  { s with
    slots := p.slots
    keyshadow := p.keyshadow
    wq := s.wq ++ p.pending
    diag := s.diag ++ p.diags
    resp := s.resp ++ [p.resp]
    port := s.port.tail }

/-- The control agent's step for a command: commit if admitted; otherwise it holds, consumes no packet and changes
nothing (20_memory.md R63; log 7). -/
def runPlan (s : State) (p : Plan) : State := if admits s p then s.commit p else s

/-! ## The audio side -/

/-- A register write as the chip collaborator sees it (43_bridge.md R216). -/
def RegWrite.event (w : RegWrite) : ChipEvent := .write w.addr w.val

/-- `ChipWrite(addr, v)` of one queue entry, its record in `chipLog`, and the step of `WQ` past it
(43_bridge.md R219). -/
def State.deliver (s : State) (w : RegWrite) : State :=
  { s with
    chip := s.chip ++ [w.event]
    chipLog := s.chipLog ++ [w]
    wq := s.wq.tail }

/-- The element at an index of a host buffer; none where nothing has been written. -/
def Memory.read (m : Memory) (i : Nat) : Option F32 :=
  match m with
  | [] => none
  | (j, x) :: rest => if i = j then some x else Memory.read rest i

/-- Store an element, keeping the indices strictly rising. -/
def Memory.write (m : Memory) (i : Nat) (x : F32) : Memory :=
  match m with
  | [] => [(i, x)]
  | (j, y) :: rest =>
    if i < j then (i, x) :: (j, y) :: rest
    else if i = j then (i, x) :: rest
    else (j, y) :: Memory.write rest i x

/-- `HostWrite(L, i, x)` and `HostWrite(R, i, x)`: the mono sample duplicated to stereo (20_memory.md R55;
43_bridge.md R218). -/
def State.hostWriteBoth (s : State) (i : Nat) (x : F32) : State :=
  { s with bufL := Memory.write s.bufL i x, bufR := Memory.write s.bufR i x }

/-! ## Whose step is next -/

/-- The agent that moves next: the head of `turns`, and the control agent when the host calls RENDER no more
(20_memory.md R62; log 5). -/
def State.nextAgent (s : State) : Agent := s.turns.headD .control

/-- The chosen turn is used up. -/
def State.takeTurn (s : State) : State := { s with turns := s.turns.tail }

end Sys2Proof.Machine
end

