-- ==== Sys2Proof/Machine/Operands.lean ====
section
/-! DEFINITION. How operands are read and results written: range checks, the effective note, voice assignment, sample
conversion, and the payload of every response (30_encoding.md R86, R92, R93; 42_engine.md R179, R183, R190;
43_bridge.md R220). -/

namespace Sys2Proof.Machine

/-! ## Operands -/

/-- `midiNote > 127`, which NOTE_ON and NOTE_OFF reject (42_engine.md R179). -/
abbrev noteOutOfRange (note : Byte) : Prop := 127 < note.toNat

/-- The channel a LOAD_PATCH operand names; none when it is greater than 8 (42_engine.md R207). -/
def channelOperand (ch : Byte) : Option Channel := if h : ch.toNat < 9 then some ⟨ch.toNat, h⟩ else none

/-- Dual-voice eligible: enabled, and a second voice present (30_encoding.md R86). -/
def eligible (p : Patch) : Bool := p.dualVoiceEnabled && p.voice2.isSome

/-- `effNote(note, v) = clamp(note + sext(v.baseNoteOffset), 0, 127)`, integer arithmetic (42_engine.md R190). -/
def effNote (note : Byte) (v : Voice) : Note :=
  ⟨(min (max ((note.toNat : Int) + v.baseNoteOffset.toInt) 0) 127).toNat, by omega⟩

/-- The voices on the granted channels: two channels take voice1 and voice2, one takes voice1 (42_engine.md R183).
A grant of two channels comes with a second voice, and no grant is longer; the last two rows say what the model
does off the reachable states (log 12). -/
def assignVoices (cs : List Channel) (p : Patch) : List (Channel × Voice) :=
  match cs, p.voice2 with
  | [c0, c1], some v2 => [(c0, p.voice1), (c1, v2)]
  | c :: _, _ => [(c, p.voice1)]
  | [], _ => []

/-! ## Response payloads -/

/-- A channel byte, 0xFF where unused (30_encoding.md R92, R93). -/
def channelByte : Option Channel → Byte
  | some c => BitVec.ofNat 8 c
  | none => 0xFF

/-- `[nch][c0][c1]` (30_encoding.md R92, R93). -/
def channelsPayload (cs : List Channel) : List Byte :=
  [BitVec.ofNat 8 cs.length, channelByte cs[0]?, channelByte cs[1]?]

/-- An evicted NoteId, zero where unused (30_encoding.md R93). -/
def evictedBytes : Option NoteId → List Byte
  | some id => bytesNoteId id
  | none => [0, 0, 0]

/-- AllocResult, 10 bytes (30_encoding.md R93). -/
def allocResult (cs : List Channel) (evicted : List NoteId) : List Byte :=
  channelsPayload cs ++ [BitVec.ofNat 8 evicted.length] ++ evictedBytes evicted[0]? ++ evictedBytes evicted[1]?

/-- `[free][allocated][dualVoiceNoteCount]` (30_encoding.md R92). -/
def statsPayload (a : Arena) : List Byte :=
  [BitVec.ofNat 8 (Arena.free a), BitVec.ofNat 8 (Arena.allocated a), BitVec.ofNat 8 (Arena.dualVoiceNoteCount a)]

/-- `[present][nch][c0][c1][dual][stamp u32]` (30_encoding.md R92; 41_allocator.md R163). -/
def allocationPayload : Option Allocation → List Byte
  | none => [0, 0, 0xFF, 0xFF, 0, 0, 0, 0, 0]
  | some x => [1] ++ channelsPayload x.channels ++ [if x.isDualVoice then 1 else 0] ++ bytes32 x.timestamp

/-! ## Sample conversion -/

/-- The binary32 bit pattern of `±m / 32768` for `0 < m ≤ 32768`: the leading one of `m` is at bit `k`, so the biased
exponent is `k − 15 + 127` and the fraction is the rest of `m`, moved up to 23 bits; nothing is rounded
(43_bridge.md R220). -/
def f32OfMagnitude (negative : Bool) (m : Nat) : F32 :=
  let k := m.log2
  BitVec.ofNat 32 ((if negative then 2 ^ 31 else 0) + (k + 112) * 2 ^ 23 + (m - 2 ^ k) * 2 ^ (23 - k))

/-- `toF32(s) = s / 32768`, exact; zero is +0.0 (43_bridge.md R220). -/
def toF32 (s : Sample) : F32 :=
  if s.toInt = 0 then 0 else f32OfMagnitude (decide (s.toInt < 0)) s.toInt.natAbs

end Sys2Proof.Machine
end

