-- ==== Sys2Proof/Machine/Allocation.lean ====
section
/-! DEFINITION. The procedures of the ChannelManager that grant channels, with voice stealing and degrade
(41_allocator.md R143, R146, R149 to R153). They read and write the slot arena alone (R136). -/

namespace Sys2Proof.Machine

/-- The outcome of an allocation, the channels granted, the evicted identities in eviction order, the arena after it,
and the diagnostics it raised (41_allocator.md R144). -/
structure Granted where
  status : AllocStatus
  channels : List Channel
  evicted : List NoteId
  slots : Arena
  diags : List Diag
deriving DecidableEq, Repr

/-! ## Single -/

/-- Steps 3 and 4 of `allocSingle`: the lowest free channel, after one eviction if there is none
(41_allocator.md R146). The two `fail` rows cannot happen (R147). -/
def takeLowest (a : Arena) (id : NoteId) (now : Stamp) : Granted :=
  match Arena.freeSet a with
  | c :: _ => ⟨.ok, [c], [], Arena.grant a id [c] now false, []⟩
  | [] =>
    match Arena.oldest a fun _ => true with
    | none => ⟨.fail, [], [], a, []⟩
    | some v =>
      match Arena.freeSet (Arena.release a v.noteId) with
      | c :: _ => ⟨.ok, [c], [v.noteId], Arena.grant (Arena.release a v.noteId) id [c] now false, []⟩
      | [] => ⟨.fail, [], [v.noteId], Arena.release a v.noteId, []⟩

/-- `allocSingle(id, now)` (41_allocator.md R146): idempotent on a single-voice allocation, whose stamp it does not
refresh; a dual or degraded one is released first. -/
def allocSingle (a : Arena) (id : NoteId) (now : Stamp) : Granted :=
  match Arena.alloc a id with
  | none => takeLowest a id now
  | some x =>
    if x.isDualVoice then takeLowest (Arena.release a id) id now else ⟨.ok, x.channels, [], a, []⟩

/-! ## Dual -/

/-- The least `i` with `i` and `i + 1` both in `F`, as the pair (41_allocator.md R149). -/
def consecutivePair (f : List Channel) : Option (List Channel) :=
  ([[0, 1], [1, 2], [2, 3], [3, 4], [4, 5], [5, 6], [6, 7], [7, 8]] : List (List Channel)).find?
    fun cs => cs.all fun c => f.contains c

/-- `pickPair(F)`: the lowest consecutive pair, or else the two least elements (41_allocator.md R149). -/
def pickPair (f : List Channel) : List Channel := (consecutivePair f).getD (f.take 2)

/-- One stealing loop of `allocDual`: while fewer than two channels are free and some allocation satisfies `P`, evict
the oldest such (41_allocator.md R153 steps 2 and 3). The first argument bounds the turns; each eviction frees a
channel, so two turns are never exceeded (R156), and the callers allow nine. -/
def steal (P : Allocation → Bool) : Nat → Arena × List NoteId → Arena × List NoteId
  | 0, st => st
  | n + 1, (a, evicted) =>
    if 2 ≤ (Arena.freeSet a).length then (a, evicted)
    else
      match Arena.oldest a P with
      | none => (a, evicted)
      | some v => steal P n (Arena.release a v.noteId, evicted ++ [v.noteId])

/-- Steps 2 and 3 of `allocDual`: single-voice victims first, then, under `ANY_TYPE`, any (41_allocator.md R148,
R153). -/
def stealForDual (policy : StealPolicy) (a : Arena) : Arena × List NoteId :=
  match policy with
  | .singleOnly => steal (fun x => !x.isDualVoice) 9 (a, [])
  | .anyType => steal (fun _ => true) 9 (steal (fun x => !x.isDualVoice) 9 (a, []))

/-- Steps 4 to 6 of `allocDual`: full grant, degrade, or fail (41_allocator.md R150, R151, R153). -/
def grantDual (a : Arena) (evicted : List NoteId) (id : NoteId) (now : Stamp) : Granted :=
  match Arena.freeSet a with
  | [] => ⟨.fail, [], evicted, a, [.allocFailed id]⟩
  | [c] => ⟨.degraded, [c], evicted, Arena.grant a id [c] now true, [.degraded id c]⟩
  | c0 :: c1 :: rest =>
    ⟨.ok, pickPair (c0 :: c1 :: rest), evicted, Arena.grant a id (pickPair (c0 :: c1 :: rest)) now true, []⟩

/-- `allocDual(id, now)` (41_allocator.md R153). Step 1 releases whatever `id` holds, which is nothing when it holds
nothing. -/
def allocDual (policy : StealPolicy) (a : Arena) (id : NoteId) (now : Stamp) : Granted :=
  let stolen := stealForDual policy (Arena.release a id)
  grantDual stolen.1 stolen.2 id now

/-- `raise Diag(0x03 ALLOC_FAILED)` on a `Fail` of `allocSingle`, which its two callers do (41_allocator.md R145;
42_engine.md R184). -/
def singleDiags (g : Granted) (id : NoteId) : List Diag :=
  match g.status with
  | .fail => [.allocFailed id]
  | .ok => []
  | .degraded => []

end Sys2Proof.Machine
end

