-- ==== Sys2Proof/Machine/Allocator.lean ====
section
/-! DEFINITION. The commands of the ChannelManager: ALLOC_CHANNEL, ALLOC_DUAL, RELEASE_NOTE, GET_STATS, GET_ALLOCATION,
RESET_ALLOCATOR (41_allocator.md R145, R152, R158, R161, R163, R166). Each is a plan, which says what the command does
when it runs to its end, and its meaning, which runs the plan if it is admitted. -/

namespace Sys2Proof.Machine

/-- A working copy with an allocation's arena and diagnostics taken in. -/
def Plan.takeGrant (p : Plan) (g : Granted) : Plan := { p with slots := g.slots, diags := p.diags ++ g.diags }

/-- The response of an allocating command: status and AllocResult (41_allocator.md R144). -/
def Granted.response (g : Granted) : Response := g.status.byte :: allocResult g.channels g.evicted

/-- The plan of ALLOC_CHANNEL (41_allocator.md R145). -/
def planAllocChannel (id : NoteId) (now : Stamp) (s : State) : Plan :=
  let g := allocSingle s.slots id now
  (((Plan.start s).takeGrant { g with diags := singleDiags g id })).reply g.response

/-- ALLOC_CHANNEL (41_allocator.md R145). -/
def execAllocChannel (id : NoteId) (now : Stamp) (s : State) : Host.Outcome State Fault Refusal :=
  .next (runPlan s (planAllocChannel id now s))

/-- The plan of ALLOC_DUAL (41_allocator.md R152). -/
def planAllocDual (id : NoteId) (now : Stamp) (s : State) : Plan :=
  let g := allocDual s.cfg.dualStealPolicy s.slots id now
  ((Plan.start s).takeGrant g).reply g.response

/-- ALLOC_DUAL (41_allocator.md R152). -/
def execAllocDual (id : NoteId) (now : Stamp) (s : State) : Host.Outcome State Fault Refusal :=
  .next (runPlan s (planAllocDual id now s))

/-- The plan of RELEASE_NOTE (41_allocator.md R158). -/
def planReleaseNote (id : NoteId) (s : State) : Plan :=
  ({ Plan.start s with slots := Arena.release s.slots id }).reply
    (statusOk :: channelsPayload (Arena.owned s.slots id))

/-- RELEASE_NOTE (41_allocator.md R158). -/
def execReleaseNote (id : NoteId) (s : State) : Host.Outcome State Fault Refusal :=
  .next (runPlan s (planReleaseNote id s))

/-- The plan of GET_STATS (41_allocator.md R161). -/
def planGetStats (s : State) : Plan := (Plan.start s).reply (statusOk :: statsPayload s.slots)

/-- GET_STATS (41_allocator.md R161). -/
def execGetStats (s : State) : Host.Outcome State Fault Refusal := .next (runPlan s (planGetStats s))

/-- The plan of GET_ALLOCATION (41_allocator.md R163). -/
def planGetAllocation (id : NoteId) (s : State) : Plan :=
  (Plan.start s).reply (statusOk :: allocationPayload (Arena.alloc s.slots id))

/-- GET_ALLOCATION (41_allocator.md R163). -/
def execGetAllocation (id : NoteId) (s : State) : Host.Outcome State Fault Refusal :=
  .next (runPlan s (planGetAllocation id s))

/-- The plan of RESET_ALLOCATOR (41_allocator.md R166). -/
def planResetAllocator (s : State) : Plan :=
  ({ Plan.start s with slots := Arena.clear s.slots }).reply [statusOk]

/-- RESET_ALLOCATOR (41_allocator.md R166). -/
def execResetAllocator (s : State) : Host.Outcome State Fault Refusal := .next (runPlan s (planResetAllocator s))

end Sys2Proof.Machine
end

