-- ==== Sys2Proof/Machine/Bridge.lean ====
section
/-! DEFINITION. The AudioBufferBridge: RENDER, the audio agent's one operation (43_bridge.md R218 to R224). -/

namespace Sys2Proof.Machine

/-- `drain()`: every entry of the queue delivered to the chip, oldest first (43_bridge.md R219). The list is the queue
as the loop finds it. -/
def drain : List RegWrite → State → State
  | [], s => s
  | w :: rest, s => drain rest (s.deliver w)

/-- A chip collaborator as the block sees it: its answer to `chipGenerate(n)` after an input history
(43_bridge.md R216, R233; log 9). -/
abbrev Collaborator := (history : List ChipEvent) → (n : Nat) → Vector Sample n

/-- The inner loop of RENDER: convert each sample and write it into both buffers, from index `i` up
(43_bridge.md R218). -/
def writeSamples : Nat → List Sample → State → State
  | _, [], s => s
  | i, x :: rest, s => writeSamples (i + 1) rest (s.hostWriteBoth i (toF32 x))

/-- One turn of the outer loop: `ChipGenerate(chunk)`, then the samples written from index `off`
(43_bridge.md R218). -/
def renderChunk (chip : Collaborator) (off chunk : Nat) (s : State) : State :=
  writeSamples off (chip s.chip chunk).toList { s with chip := s.chip ++ [.generate chunk] }

/-- The outer loop of RENDER from index `off` (43_bridge.md R218, R222). The first argument bounds the turns; each turn
writes at least one index when `MAX_CHIP_CHUNK ≥ 1` (00_scope.md R8), so `HOST_BUFFER_LEN` turns suffice (log 13). -/
def renderLoop (chip : Collaborator) : Nat → Nat → State → State
  | 0, _, s => s
  | turns + 1, off, s =>
    if off < s.cfg.hostBufferLen then
      let chunk := min s.cfg.maxChipChunk (s.cfg.hostBufferLen - off)
      renderLoop chip turns (off + chunk) (renderChunk chip off chunk s)
    else s

/-- RENDER with a given collaborator: drain, then fill the whole of both buffers (43_bridge.md R218). -/
def renderWith (chip : Collaborator) (s : State) : State :=
  renderLoop chip s.cfg.hostBufferLen 0 (drain s.wq s)

/-- RENDER (43_bridge.md R218), with the collaborator left free. It is always enabled and cannot fail (R226, R227). -/
def execRender (s : State) : Host.Outcome State Fault Refusal := .next (renderWith Config.chipGenerate s)

end Sys2Proof.Machine
end

