-- ==== Sys2Proof/Machine/Encoder.lean ====
section
/-! DEFINITION. The PatchRegisterEncoder (40_encoder.md): pure functions from an operator or a voice to the register
writes that program it. -/

namespace Sys2Proof.Machine

/-- The address `base + slot` of an operator byte (30_encoding.md R97). -/
def slotAddr (base : Addr) (slot : Byte) : Addr := base + slot.setWidth 16

/-- The address `base + channel` of a channel byte (30_encoding.md R101). -/
def channelAddr (base : Addr) (c : Channel) : Addr := base + BitVec.ofNat 16 c

/-- `encodeOperator(s, op)`: five writes, in the document's order (40_encoder.md R113). -/
def encodeOperator (m : RegMap) (slot : Byte) (o : Operator) : List RegWrite :=
  [⟨slotAddr m.charBase slot, charByte m o⟩,
   ⟨slotAddr m.levelBase slot, levelByte m o⟩,
   ⟨slotAddr m.adBase slot, adByte m o⟩,
   ⟨slotAddr m.srBase slot, srByte m o⟩,
   ⟨slotAddr m.waveBase slot, waveByte m o⟩]

/-- The modulator and carrier slots of a channel, a table read (40_encoder.md R116). -/
def slotsOf (m : RegMap) (c : Channel) : Byte × Byte := m.slot[c]

/-- `encodeVoice(ch, v)`: modulator, carrier, feedback/connection, eleven writes (40_encoder.md R118). -/
def encodeVoice (m : RegMap) (c : Channel) (v : Voice) : List RegWrite :=
  encodeOperator m (slotsOf m c).1 v.mod ++ encodeOperator m (slotsOf m c).2 v.car ++
    [⟨channelAddr m.fbcntBase c, fbcntByte v⟩]

end Sys2Proof.Machine
end

