-- ==== Sys2Proof/Machine/Engine.lean ====
section
/-! DEFINITION. The commands of the SynthesisEngine: NOTE_ON, NOTE_OFF, ALL_NOTES_OFF, GET_CHANNEL_STATS, LOAD_PATCH
(42_engine.md R184, R198, R202, R205, R207). -/

namespace Sys2Proof.Machine

/-! ## Key writes -/

/-- `keyOn(c, b, f)`: the F-number low byte first, then the key byte (42_engine.md R180). -/
def Plan.keyOn (p : Plan) (m : RegMap) (c : Channel) (e : FreqEntry) : Plan :=
  (p.emit (channelAddr m.fnumLoBase c) (fnumLoByte e)).emitKey m c (keyOnByte m e)

/-- `keyOff(c)`: one write of the shadow with the key-on bit clear (42_engine.md R181). -/
def Plan.keyOff (p : Plan) (m : RegMap) (c : Channel) : Plan := p.emitKey m c (keyOffByte m p.keyshadow[c])

/-- `keyOff` on each channel of a list, in its order. -/
def Plan.keyOffAll (p : Plan) (m : RegMap) (cs : List Channel) : Plan := cs.foldl (fun p c => p.keyOff m c) p

/-! ## NOTE_ON -/

/-- Step 4 of NOTE_ON: every granted channel programmed, in order (42_engine.md R184). -/
def Plan.programVoices (p : Plan) (m : RegMap) (vs : List (Channel × Voice)) : Plan :=
  p.emitAll (vs.flatMap fun cv => encodeVoice m cv.1 cv.2)

/-- Step 5 of NOTE_ON for one channel: the diagnostic of a fallback entry, then `keyOn` (42_engine.md R184, R194). -/
def Plan.keyOnVoice (cfg : Config) (note : Byte) (p : Plan) (cv : Channel × Voice) : Plan :=
  let n := effNote note cv.2
  let e := cfg.freqTable[n]
  (if e.fallback then p.raise (.freqFallback cv.1 n) else p).keyOn cfg.regmap cv.1 e

/-- Steps 4 and 5 of NOTE_ON: all voices programmed, then all keyed on (42_engine.md R184, R186). -/
def Plan.soundVoices (p : Plan) (cfg : Config) (note : Byte) (vs : List (Channel × Voice)) : Plan :=
  vs.foldl (Plan.keyOnVoice cfg note) (p.programVoices cfg.regmap vs)

/-- Step 2 of NOTE_ON: the dual path for an eligible patch, else the single path (42_engine.md R184). -/
def noteOnGrant (s : State) (id : NoteId) (now : Stamp) (patch : Patch) : Granted :=
  if eligible patch then allocDual s.cfg.dualStealPolicy s.slots id now
  else
    let g := allocSingle s.slots id now
    { g with diags := singleDiags g id }

/-- The plan of NOTE_ON; the velocity is ignored (42_engine.md R184; 30_encoding.md R88). -/
def planNoteOn (track : TrackId) (note : Byte) (_velocity : Byte) (now : Stamp) (patch : Patch) (s : State) : Plan :=
  if noteOutOfRange note then Plan.abort s (.invalidInput 0x01 .note note) statusInvalidInput
  else
    let g := noteOnGrant s { track := track, note := note } now patch
    let p := (Plan.start s).takeGrant g
    match g.status with
    | .fail => p.reply g.response
    | .ok => (p.soundVoices s.cfg note (assignVoices g.channels patch)).reply g.response
    | .degraded => (p.soundVoices s.cfg note (assignVoices g.channels patch)).reply g.response

/-- NOTE_ON (42_engine.md R184). -/
def execNoteOn (track : TrackId) (note : Byte) (velocity : Byte) (now : Stamp) (patch : Patch) (s : State) :
    Host.Outcome State Fault Refusal :=
  .next (runPlan s (planNoteOn track note velocity now patch s))

/-! ## NOTE_OFF -/

/-- The plan of NOTE_OFF. An identity that holds nothing has no channel to key off or release, and the response is
`[0x00][0][0xFF][0xFF]` (42_engine.md R198, R199). -/
def planNoteOff (track : TrackId) (note : Byte) (s : State) : Plan :=
  if noteOutOfRange note then Plan.abort s (.invalidInput 0x02 .note note) statusInvalidInput
  else
    let id : NoteId := { track := track, note := note }
    let held := Arena.owned s.slots id
    let p := (Plan.start s).keyOffAll s.cfg.regmap held
    ({ p with slots := Arena.release p.slots id }).reply (statusOk :: channelsPayload held)

/-- NOTE_OFF (42_engine.md R198). -/
def execNoteOff (track : TrackId) (note : Byte) (s : State) : Host.Outcome State Fault Refusal :=
  .next (runPlan s (planNoteOff track note s))

/-! ## ALL_NOTES_OFF -/

/-- `for a in live: release(a.noteId)` (42_engine.md R202). -/
def releaseAll (a : Arena) (xs : List Allocation) : Arena := xs.foldl (fun a x => Arena.release a x.noteId) a

/-- The plan of ALL_NOTES_OFF: all nine channels keyed off, then every allocation released (42_engine.md R202). -/
def planAllNotesOff (s : State) : Plan :=
  let live := Arena.live s.slots
  let p := (Plan.start s).keyOffAll s.cfg.regmap channels
  ({ p with slots := releaseAll p.slots live }).reply [statusOk, BitVec.ofNat 8 live.length]

/-- ALL_NOTES_OFF (42_engine.md R202). -/
def execAllNotesOff (s : State) : Host.Outcome State Fault Refusal := .next (runPlan s (planAllNotesOff s))

/-! ## GET_CHANNEL_STATS -/

/-- The plan of GET_CHANNEL_STATS: the same result as GET_STATS (42_engine.md R205). -/
def planGetChannelStats (s : State) : Plan := (Plan.start s).reply (statusOk :: statsPayload s.slots)

/-- GET_CHANNEL_STATS (42_engine.md R205). -/
def execGetChannelStats (s : State) : Host.Outcome State Fault Refusal := .next (runPlan s (planGetChannelStats s))

/-! ## LOAD_PATCH -/

/-- The plan of LOAD_PATCH: voice1 on the channel, no allocation, no key byte (42_engine.md R207). -/
def planLoadPatch (ch : Byte) (patch : Patch) (s : State) : Plan :=
  match channelOperand ch with
  | none => Plan.abort s (.invalidInput 0x05 .channel ch) statusInvalidInput
  | some c => ((Plan.start s).emitAll (encodeVoice s.cfg.regmap c patch.voice1)).reply [statusOk]

/-- LOAD_PATCH (42_engine.md R207). -/
def execLoadPatch (ch : Byte) (patch : Patch) (s : State) : Host.Outcome State Fault Refusal :=
  .next (runPlan s (planLoadPatch ch patch s))

end Sys2Proof.Machine
end

