-- ==== Sys2Proof/Machine/Illegal.lean ====
section
/-! DEFINITION. The packet that does not decode (30_encoding.md R90; 60_exceptions.md R245). -/

namespace Sys2Proof.Machine

/-- What an undecodable packet does: the response `[0x04]` and one ILLEGAL_COMMAND record, nothing else
(30_encoding.md R90). -/
def planIllegal (opcode : Byte) (length : Nat) (s : State) : Plan :=
  Plan.abort s (.illegalCommand opcode length) statusIllegalCommand

/-- ILLEGAL_COMMAND, which consumes one packet and is always admitted (30_encoding.md R90; 60_exceptions.md R245). -/
def execIllegal (opcode : Byte) (length : Nat) (s : State) : Host.Outcome State Fault Refusal :=
  .next (runPlan s (planIllegal opcode length s))

end Sys2Proof.Machine
end

