-- ==== Sys2Proof/Machine/Dispatch.lean ====
section
/-! DEFINITION. exec: one arm for each constructor of Instr, each one direct call of its meaning. -/

namespace Sys2Proof.Machine

def exec (i : Instr) (s : State) : Host.Outcome State Fault Refusal :=
  match i with
  | .noteOn track note velocity now patch => Sys2Proof.Machine.execNoteOn track note velocity now patch s
  | .noteOff track note => Sys2Proof.Machine.execNoteOff track note s
  | .allNotesOff => Sys2Proof.Machine.execAllNotesOff s
  | .getChannelStats => Sys2Proof.Machine.execGetChannelStats s
  | .loadPatch channel patch => Sys2Proof.Machine.execLoadPatch channel patch s
  | .allocChannel id now => Sys2Proof.Machine.execAllocChannel id now s
  | .allocDual id now => Sys2Proof.Machine.execAllocDual id now s
  | .releaseNote id => Sys2Proof.Machine.execReleaseNote id s
  | .getStats => Sys2Proof.Machine.execGetStats s
  | .getAllocation id => Sys2Proof.Machine.execGetAllocation id s
  | .resetAllocator => Sys2Proof.Machine.execResetAllocator s
  | .render => Sys2Proof.Machine.execRender s
  | .illegal opcode length => Sys2Proof.Machine.execIllegal opcode length s

end Sys2Proof.Machine
end

