-- ==== Sys2Proof/Machine/Schedule.lean ====
section
/-! DEFINITION. What a step runs: the next agent's instruction (20_memory.md R60, R62), and how a host input is put where
the next step takes it. -/

namespace Sys2Proof.Machine

/-- The instruction of the next step: RENDER for the audio agent, and for the control agent the packet at the head of the
port, decoded; none when no packet waits (20_memory.md R62; 30_encoding.md R77; 70_reset_and_hazards.md R280). -/
def State.fetch (s : State) : Option Instr :=
  match s.nextAgent with
  | .audio => some .render
  | .control => s.port.head?.map decode

/-- The host input put first: a packet at the head of the port and the control agent's turn, or a RENDER call
(70_reset_and_hazards.md R277; log 6). -/
def State.withInput (s : State) : HostInput → State
  | .packet p => { s with port := p :: s.port, turns := .control :: s.turns }
  | .renderCall => { s with turns := .audio :: s.turns }

end Sys2Proof.Machine
end

