-- ==== Sys2Proof/Machine/Step.lean ====
section
/-! DEFINITION. One step of the block: one whole step of one agent (20_memory.md R62). -/

namespace Sys2Proof.Machine

/-- One step: the next agent's turn is used up, and its instruction runs. A control turn with no packet waiting is the
idle block: nothing of it changes (70_reset_and_hazards.md R280; log 8). -/
def step (s : State) : Host.Outcome State Fault Refusal :=
  match s.fetch with
  | none => .next s.takeTurn
  | some i => exec i s.takeTurn

/-- The state with a table word's instruction put where the next step takes it (log 6, log 15). -/
def State.withFetchWord (s : State) (nbits w : Nat) : State := s.withInput (tableInput nbits w)

end Sys2Proof.Machine
end

