-- ==== Sys2Proof/WellFormed.lean ====
section
/-! DEFINITION. Which instructions a host input can stand for. Every operand of the twelve defined rows has the
width of its field, so only the row of undecodable packets can be ill-formed. -/

namespace Sys2Proof

/-- An empty packet reports the opcode 0xFF (30_encoding.md R90). -/
def illegalEmptyOk (opcode : Byte) (length : Nat) : Bool := length != 0 || opcode == 0xFF

/-- A packet of a defined opcode and of that opcode's length does decode, so it is not illegal
(30_encoding.md R77). -/
def illegalLengthOk (opcode : Byte) (length : Nat) : Bool :=
  length == 0 || opcodeLength opcode != some length

/-- The instructions that some host input decodes to. -/
def Instr.wellFormed : Instr → Bool
  | .noteOn _ _ _ _ _ => true
  | .noteOff _ _ => true
  | .allNotesOff => true
  | .getChannelStats => true
  | .loadPatch _ _ => true
  | .allocChannel _ _ => true
  | .allocDual _ _ => true
  | .releaseNote _ => true
  | .getStats => true
  | .getAllocation _ => true
  | .resetAllocator => true
  | .render => true
  | .illegal opcode length => illegalEmptyOk opcode length && illegalLengthOk opcode length

end Sys2Proof
end

