-- ==== Sys2Proof/Safety.lean ====
section
/-! DEFINITION. The terms claims about the block use: the invariants of its state, admission, the sample stream,
a run without errors (10_state.md R27, R32; 20_memory.md R57, R63; 42_engine.md R210; 43_bridge.md R222, R224;
60_exceptions.md R252). The end of a run is in Machine/Run.lean. -/

namespace Sys2Proof.Machine

/-! ## Arena invariants -/

/-- Channel `c` is held by note identity `id`. -/
abbrev Arena.holds (a : Arena) (id : NoteId) (c : Channel) : Prop := a[c].busy = true ∧ a[c].owner = id

/-- The note identity holds no channel: it is Idle (42_engine.md R177). -/
abbrev Arena.idle (a : Arena) (id : NoteId) : Prop := ∀ c : Channel, ¬Arena.holds a id c

/-- Invariant I2, read at each busy channel `c`: its owner holds at most two channels, which agree on stamp and dual
flag, and two channels only with the dual flag set (10_state.md R27). -/
abbrev Arena.wellShaped (a : Arena) : Prop :=
  ∀ c : Channel, a[c].busy = true →
    (Arena.owned a a[c].owner).length ≤ 2 ∧
    ((Arena.owned a a[c].owner).length = 2 → a[c].dual = true) ∧
    ∀ d : Channel, Arena.holds a a[c].owner d → a[d].stamp = a[c].stamp ∧ a[d].dual = a[c].dual

/-- A free slot is all zero (10_state.md R44, R45). -/
abbrev Arena.freeZeroed (a : Arena) : Prop := ∀ c : Channel, a[c].busy = false → a[c] = Slot.free

/-- The two channels `pickPair` answers from the channels that satisfy `F`, in the words of the rule: the least
consecutive pair, or else the two least (41_allocator.md R149). -/
abbrev isPairOf (F : Channel → Prop) (c0 c1 : Channel) : Prop :=
  F c0 ∧ F c1 ∧ c0 < c1 ∧
    ((c1.val = c0.val + 1 ∧ ∀ i j : Channel, F i → F j → j.val = i.val + 1 → c0 ≤ i) ∨
      ((∀ i j : Channel, F i → F j → j.val ≠ i.val + 1) ∧ ∀ i : Channel, F i → i = c0 ∨ c1 ≤ i))

/-! ## Writes and the register map -/

/-- The addresses of the default register map: five bytes of each of the 18 operator slots, three of each of the nine
channels (20_memory.md R57). -/
def registerMapAddrs : List Addr :=
  (([0x20, 0x40, 0x60, 0x80, 0xE0] : List Addr).flatMap fun base =>
    ([0x00, 0x01, 0x02, 0x03, 0x04, 0x05, 0x08, 0x09, 0x0A, 0x0B, 0x0C, 0x0D, 0x10, 0x11, 0x12, 0x13, 0x14, 0x15] :
      List Addr).map (base + ·)) ++
  (([0xA0, 0xB0, 0xC0] : List Addr).flatMap fun base =>
    ([0, 1, 2, 3, 4, 5, 6, 7, 8] : List Addr).map (base + ·))

/-- Every write the block has committed, delivered or queued, in commit order (20_memory.md R64). -/
def State.committed (s : State) : List RegWrite := s.chipLog ++ s.wq

/-- The last value a list of writes gives an address. -/
def lastWriteTo (addr : Addr) : List RegWrite → Option Byte
  | [] => none
  | w :: rest =>
    match lastWriteTo addr rest with
    | some v => some v
    | none => if w.addr = addr then some w.val else none

/-- `keyshadow[c]` is the last value committed to `KEY_BASE + c`, or 0x00 if none (42_engine.md R210). -/
abbrev State.shadowMirrors (s : State) : Prop :=
  ∀ c : Channel, s.keyshadow[c] = (lastWriteTo (keyAddr s.cfg.regmap c) s.committed).getD 0

/-- Every committed write has an address of the default register map (20_memory.md R57). -/
abbrev State.writesInMap (s : State) : Prop := ∀ w ∈ s.committed, w.addr ∈ registerMapAddrs

/-- Both host buffers have the canonical form and no index outside them (20_memory.md R55). -/
abbrev State.buffersOk (s : State) : Prop :=
  Memory.wf s.bufL ∧ Memory.wf s.bufR ∧
    (∀ p ∈ s.bufL, p.1 < s.cfg.hostBufferLen) ∧ ∀ p ∈ s.bufR, p.1 < s.cfg.hostBufferLen

/-! ## Admission -/

/-- What a command would do if run to its end (20_memory.md R63); RENDER is no command. -/
def Instr.plan (i : Instr) (s : State) : Option Plan :=
  match i with
  | .noteOn track note velocity now patch => some (planNoteOn track note velocity now patch s)
  | .noteOff track note => some (planNoteOff track note s)
  | .allNotesOff => some (planAllNotesOff s)
  | .getChannelStats => some (planGetChannelStats s)
  | .loadPatch channel patch => some (planLoadPatch channel patch s)
  | .allocChannel id now => some (planAllocChannel id now s)
  | .allocDual id now => some (planAllocDual id now s)
  | .releaseNote id => some (planReleaseNote id s)
  | .getStats => some (planGetStats s)
  | .getAllocation id => some (planGetAllocation id s)
  | .resetAllocator => some (planResetAllocator s)
  | .render => none
  | .illegal opcode length => some (planIllegal opcode length s)

/-- `n(cmd, S)`: the number of writes the command would emit (20_memory.md R63). -/
def writeCount (i : Instr) (s : State) : Nat := ((Instr.plan i s).map fun p => p.pending.length).getD 0

/-- A packet waits and the control agent holds it (20_memory.md R63). -/
abbrev State.held (s : State) : Prop :=
  ∃ p rest, s.port = p :: rest ∧ writeCount (decode p) s ≠ 0 ∧
    s.cfg.wqDepth < s.wq.length + writeCount (decode p) s

/-! ## RENDER -/

/-- The sizes of the `chipGenerate` calls of one RENDER: full chunks, then the rest (43_bridge.md R222). -/
def chunkSizes (n m : Nat) : List Nat :=
  if n = 0 then [] else List.replicate ((n + m - 1) / m - 1) m ++ [n - m * ((n + m - 1) / m - 1)]

/-- The concatenation of the sample lists the calls of the given sizes return, from an input history on
(43_bridge.md R224). -/
def sampleStream (chip : Collaborator) : List ChipEvent → List Nat → List Sample
  | _, [] => []
  | history, n :: sizes => (chip history n).toList ++ sampleStream chip (history ++ [.generate n]) sizes

/-- The number a binary32 bit pattern stands for, where it is normal or zero (every value of 43_bridge.md R220 is). -/
def f32Value (x : F32) : ℚ :=
  if x.toNat % 2 ^ 31 = 0 then 0
  else
    (if x.getLsbD 31 then -1 else 1) * (1 + ((x.toNat % 2 ^ 23 : ℕ) : ℚ) / 2 ^ 23) *
      2 ^ (((x.toNat / 2 ^ 23 % 256 : ℕ) : ℤ) - 127)

/-! ## Errors of a run -/

/-- No command was rejected: no record with code 0x01 or 0x02 (60_exceptions.md R252). -/
abbrev State.noneRejected (s : State) : Prop := ∀ d ∈ s.diag, d.code ≠ 0x01 ∧ d.code ≠ 0x02

end Sys2Proof.Machine
end

