-- ==== Sys2Proof/Certificates/Slice0/Obligations.lean ====
section
/-! DEFINITION. The statements for the provers. Each docstring names the rules of spec/ it formalises. A result arena is
written `Vector.ofFn f`: the arena whose slot at channel `c` is `f c`. Every equation `exec i s = .next { s with … }` is
the instruction's frame too: the fields of State it does not name are as before. -/

open Sys2Proof Sys2Proof.Machine

/-! ## Reset -/

/-- 10_state.md R44, 70_reset_and_hazards.md R271: what power-on reset leaves of the block's own state. -/
def Obligations.ResetLeavesTheBlockEmpty : Prop :=
  (∀ c : Channel, State.reset.slots[c] = { busy := false, owner := { track := 0, note := 0 }, stamp := 0, dual := false }) ∧
    (∀ c : Channel, State.reset.keyshadow[c] = 0x00) ∧ State.reset.wq = [] ∧ State.reset.chipLog = [] ∧
    State.reset.diag = [] ∧ State.reset.resp = []

/-- 10_state.md R27, R32, R44, R45, 20_memory.md R57, 42_engine.md R210: the block right after reset, built with any
parameters, meets every invariant that the statements below keep step by step. That the host buffers have a canonical form
and list nothing after reset is the model's choice (log 10). The last two clauses are the model's choice too:
State.reset is built with the default parameters (logs 2, 3 and 4), which meet R7 and R8 of 00_scope.md. -/
def Obligations.ResetMeetsTheInvariants : Prop :=
  (∀ c : Config,
    let s := State.resetWith c
    Arena.wellShaped s.slots ∧ Arena.freeZeroed s.slots ∧ s.wq.length ≤ s.cfg.wqDepth ∧ State.shadowMirrors s ∧
      State.writesInMap s ∧ State.buffersOk s) ∧
    State.reset = State.resetWith configDefault ∧ Config.wellFormed configDefault = true

/-! ## The step -/

/-- 20_memory.md R62, 70_reset_and_hazards.md R280: a step is one whole step of the agent whose turn it is. RENDER on an
audio turn; otherwise the instruction the packet at the head of the port decodes to; otherwise nothing. The turn is used
up. -/
def Obligations.StepRunsTheNextAgentsInstruction : Prop :=
  ∀ s : State,
    (∀ rest, s.turns = .audio :: rest → step s = exec .render { s with turns := rest }) ∧
    (∀ p ps, s.turns.head? ≠ some .audio → s.port = p :: ps →
      step s = exec (decode p) { s with turns := s.turns.tail }) ∧
    (s.turns.head? ≠ some .audio → s.port = [] → step s = .next { s with turns := s.turns.tail })

/-- 60_exceptions.md R242, R245, 43_bridge.md R227: no state, packet or callback makes the block fault or refuse. -/
def Obligations.EveryStepAnswersANextState : Prop := ∀ s : State, ∃ t, step s = .next t

/-! ## Decoding and encoding -/

/-- 30_encoding.md R78 to R82: packets written out byte by byte decode to the commands they stand for. -/
def Obligations.SamplePacketsDecode : Prop :=
  decode [0x02, 0x01, 0x00, 0x45] = .noteOff 1 69 ∧
    decode [0x10, 0x34, 0x12, 0x56, 0x04, 0x03, 0x02, 0x01] = .allocChannel ⟨0x1234, 0x56⟩ 0x01020304 ∧
    decode [0x14, 0x00, 0x00, 0x48] = .getAllocation ⟨0, 72⟩ ∧
    decode [0x13] = .getStats ∧ decode [0x03, 0x00] = .illegal 0x03 2

/-- 30_encoding.md R81 to R85, R90: what a well-formed instruction encodes to decodes to that instruction, with every
operand at every value. -/
def Obligations.DecodeInvertsEncode : Prop := ∀ i : Instr, i.wellFormed = true → decodeInput (encode i) = i

/-- 30_encoding.md R77: the decoder's four cases. -/
def Obligations.DecodeClassifiesEveryPacket : Prop :=
  decode [] = .illegal 0xFF 0 ∧
    ∀ (op : Byte) (rest : Packet),
      match opcodeLength op with
      | none => decode (op :: rest) = .illegal op (rest.length + 1)
      | some n =>
        if rest.length + 1 = n then ∀ o l, decode (op :: rest) ≠ .illegal o l
        else decode (op :: rest) = .illegal op (rest.length + 1)

/-- 30_encoding.md R89: the reserved bits of a patch image, wherever it lies in its packet, never change what the packet
decodes to, and a reserved opcode is not ignored. Each pair is an offset in the image and the bits of that byte that are
read. -/
def Obligations.ReservedBitsNeverMatter : Prop :=
  (∀ (p : Packet) (base j : Nat) (used y : Byte),
    (p.head? = some 0x01 ∧ base = 9 ∨ p.head? = some 0x05 ∧ base = 2) →
    (j, used) ∈ ([(0, 0x03), (9, 0x0F), (18, 0x0F), (20, 0x01), (30, 0x0F), (39, 0x0F), (41, 0x01)] :
      List (Nat × Byte)) →
    y &&& used = byteAt p (base + j) &&& used →
    decode (p.set (base + j) y) = decode p) ∧
  ∀ (op : Byte) (rest : Packet),
    op = 0x00 ∨ (0x06 ≤ op ∧ op ≤ 0x0F) ∨ 0x16 ≤ op → decode (op :: rest) = .illegal op (rest.length + 1)

/-- 30_encoding.md R90, 60_exceptions.md R245: a packet that is empty, has a reserved opcode or a wrong length appends one
response and one record, is always admitted, and does nothing else. -/
def Obligations.IllegalPacketOnlyReports : Prop :=
  (∀ (op : Byte) (n : Nat) (s : State),
    exec (.illegal op n) s = .next { s with
      diag := s.diag ++ [.illegalCommand op n], resp := s.resp ++ [[0x04]], port := s.port.tail }) ∧
  ∀ (p : Packet) (s : State),
    (p = [] ∨ opcodeLength (p.headD 0) = none ∨ opcodeLength (p.headD 0) ≠ some p.length) →
    exec (decode p) s = .next { s with
      diag := s.diag ++ [.illegalCommand (p.headD 0xFF) p.length], resp := s.resp ++ [[0x04]], port := s.port.tail }

/-! ## Encoder -/

/-- 40_encoder.md R112, R113, with the default register map: the five writes of an operator, in order, each field masked to
its width and placed, in arithmetic. -/
def Obligations.OperatorWritesInArithmetic : Prop :=
  ∀ (slot : Byte) (o : Operator),
    (encodeOperator regmapDefault slot o).map (fun w => (w.addr, w.val.toNat)) =
      [(0x20 + slot.setWidth 16,
        128 * o.tremolo.toNat + 64 * o.vibrato.toNat + 32 * o.sustaining.toNat + 16 * o.keyScaleRate.toNat +
          o.multiplier.toNat % 16),
       (0x40 + slot.setWidth 16, 64 * (o.keyScaleLevel.toNat % 4) + o.outputLevel.toNat % 64),
       (0x60 + slot.setWidth 16, 16 * (o.attack.toNat % 16) + o.decay.toNat % 16),
       (0x80 + slot.setWidth 16, 16 * (o.sustain.toNat % 16) + o.release.toNat % 16),
       (0xE0 + slot.setWidth 16, o.waveform.toNat % 8)]

/-- 40_encoder.md R116 to R118, 30_encoding.md R96, R102, with the default register map: modulator, carrier, then the
feedback/connection byte. -/
def Obligations.VoiceWritesElevenRegisters : Prop :=
  ∀ (c : Channel) (v : Voice),
    ∃ m k fb : Byte,
      ([(0x00, 0x03), (0x01, 0x04), (0x02, 0x05), (0x08, 0x0B), (0x09, 0x0C), (0x0A, 0x0D), (0x10, 0x13), (0x11, 0x14),
        (0x12, 0x15)] : List (Byte × Byte))[c.val]? = some (m, k) ∧
      fb.toNat = 2 * (v.feedback.toNat % 8) + (if v.connection = .fm then 1 else 0) ∧
      encodeVoice regmapDefault c v =
        encodeOperator regmapDefault m v.mod ++ encodeOperator regmapDefault k v.car ++
          [⟨0xC0 + BitVec.ofNat 16 c, fb⟩] ∧
      (encodeVoice regmapDefault c v).length = 11

/-- 40_encoder.md R121, R122: with the default register map, programming a voice writes no key byte and no F-number byte,
and programming another channel writes none of the same registers. -/
def Obligations.VoicesProgramDisjointRegisters : Prop :=
  ∀ (c : Channel) (v : Voice), ∀ w ∈ encodeVoice regmapDefault c v,
    (∀ d : Channel, w.addr ≠ 0xA0 + BitVec.ofNat 16 d ∧ w.addr ≠ 0xB0 + BitVec.ofNat 16 d) ∧
      ∀ (d : Channel) (u : Voice), d ≠ c → ∀ x ∈ encodeVoice regmapDefault d u, x.addr ≠ w.addr

/-! ## Key bytes and frequency -/

/-- 42_engine.md R180 to R182, with the default register map: what `keyOn` and `keyOff` emit and leave in the shadow. -/
def Obligations.KeyWritesSetTheShadow : Prop :=
  ∀ (p : Plan) (c : Channel) (e : FreqEntry),
    let on := p.keyOn regmapDefault c e
    let off := p.keyOff regmapDefault c
    on.keyshadow[c].toNat = 32 + 4 * e.block.toNat + e.fnum.toNat / 256 ∧
      on.keyshadow[c].getLsbD 6 = false ∧ on.keyshadow[c].getLsbD 7 = false ∧
      on.pending = p.pending ++
        [⟨0xA0 + BitVec.ofNat 16 c, BitVec.ofNat 8 (e.fnum.toNat % 256)⟩,
         ⟨0xB0 + BitVec.ofNat 16 c, on.keyshadow[c]⟩] ∧
      off.keyshadow[c].getLsbD 5 = false ∧
      (∀ i, i ≠ 5 → off.keyshadow[c].getLsbD i = p.keyshadow[c].getLsbD i) ∧
      off.pending = p.pending ++ [⟨0xB0 + BitVec.ofNat 16 c, off.keyshadow[c]⟩] ∧
      (p.keyshadow[c].getLsbD 5 = false → off.keyshadow[c] = p.keyshadow[c]) ∧
      ∀ d : Channel, d ≠ c → on.keyshadow[d] = p.keyshadow[d] ∧ off.keyshadow[d] = p.keyshadow[d]

/-- 42_engine.md R190: the effective note in its three ranges. -/
def Obligations.EffectiveNoteIsClamped : Prop :=
  ∀ (note : Byte) (v : Voice),
    ((note.toNat : Int) + v.baseNoteOffset.toInt < 0 → (effNote note v).val = 0) ∧
    (127 < (note.toNat : Int) + v.baseNoteOffset.toInt → (effNote note v).val = 127) ∧
    (0 ≤ (note.toNat : Int) + v.baseNoteOffset.toInt → (note.toNat : Int) + v.baseNoteOffset.toInt ≤ 127 →
      ((effNote note v).val : Int) = note.toNat + v.baseNoteOffset.toInt)

/-- 42_engine.md R191 to R193: every entry of the default table is the frequency formula over the real numbers at 49716 Hz,
rounded half up, in the lowest block that fits, or the fallback when no block does. That real arithmetic gives what
binary64 gives is R192's own statement (log 18). -/
def Obligations.FreqTableIsTheFormula : Prop :=
  ∀ e : Note,
    let x := fun b : Nat => (440 : ℝ) * 2 ^ (((e.val : ℝ) - 69) / 12) * 2 ^ (20 - b) / 49716
    let entry := freqTableDefault[e]
    if entry.fallback then
      entry.block = 0 ∧ entry.fnum = 0 ∧ ∀ b ≤ 7, 1023 < ⌊x b + 1 / 2⌋
    else
      (entry.fnum.toNat : ℤ) = ⌊x entry.block.toNat + 1 / 2⌋ ∧ ∀ b < entry.block.toNat, 1023 < ⌊x b + 1 / 2⌋

/-! ## Views of the arena -/

/-- 10_state.md R24, R27: I1, I3 and I4 hold of the views of every arena, and I2 of those of a well-shaped one: each
allocation has one channel or two, which agree on stamp and flag, and two only with the flag set. -/
def Obligations.AllocationViewsMeetTheInvariants : Prop :=
  ∀ a : Arena,
    ((Arena.live a).flatMap (·.channels)).Nodup ∧
      (∀ c : Channel, c ∈ (Arena.live a).flatMap (·.channels) ↔ a[c].busy = true) ∧
      ((Arena.live a).map (·.noteId)).Nodup ∧
      ((Arena.live a).map (·.channels.length)).sum = Arena.allocated a ∧ Arena.allocated a ≤ 9 ∧
      (Arena.wellShaped a → ∀ (id : NoteId) (x : Allocation), Arena.alloc a id = some x →
        (x.channels.length = 1 ∨ x.channels.length = 2) ∧
          (∀ c ∈ x.channels, a[c].stamp = x.timestamp ∧ a[c].dual = x.isDualVoice) ∧
          (x.channels.length = 2 → x.isDualVoice = true))

/-! ## ALLOC_CHANNEL -/

/-- 41_allocator.md R146 step 4: an identity that holds nothing is granted the lowest free channel. -/
def Obligations.AllocChannelTakesTheLowestFree : Prop :=
  ∀ (s : State) (id : NoteId) (now : Stamp) (c : Channel),
    Arena.idle s.slots id → s.slots[c].busy = false → (∀ j : Channel, j < c → s.slots[j].busy = true) →
    exec (.allocChannel id now) s = .next { s with
      slots := s.slots.set c { busy := true, owner := id, stamp := now, dual := false }
      resp := s.resp ++ [[0x00, 1, BitVec.ofNat 8 c, 0xFF, 0, 0, 0, 0, 0, 0, 0]]
      port := s.port.tail }

/-- 41_allocator.md R170: a repeated request by the holder of a single-voice allocation changes no slot. -/
def Obligations.AllocChannelIsIdempotent : Prop :=
  ∀ (s : State) (id : NoteId) (now : Stamp) (x : Allocation),
    Arena.alloc s.slots id = some x → x.isDualVoice = false →
    exec (.allocChannel id now) s = .next { s with
      resp := s.resp ++ [0x00 :: allocResult x.channels []], port := s.port.tail }

/-- 41_allocator.md R146 step 2: a request by the holder of a dual or degraded allocation, whose lowest channel is `d`,
frees it and is granted the lowest channel `c` then free. It is no eviction. -/
def Obligations.AllocChannelReplacesADualAllocation : Prop :=
  ∀ (s : State) (id : NoteId) (now : Stamp) (c d : Channel),
    Arena.holds s.slots id d → s.slots[d].dual = true → (∀ j : Channel, j < d → ¬Arena.holds s.slots id j) →
    (s.slots[c].busy = false ∨ Arena.holds s.slots id c) →
    (∀ j : Channel, j < c → s.slots[j].busy = true ∧ ¬Arena.holds s.slots id j) →
    exec (.allocChannel id now) s = .next { s with
      slots := Vector.ofFn fun j =>
        if j = c then { busy := true, owner := id, stamp := now, dual := false }
        else if Arena.holds s.slots id j then Slot.free else s.slots[j]
      resp := s.resp ++ [[0x00, 1, BitVec.ofNat 8 c, 0xFF, 0, 0, 0, 0, 0, 0, 0]]
      port := s.port.tail }

/-- 41_allocator.md R171: with all nine channels held by single-voice allocations, none of them the requester's, the one
with the least stamp is evicted, ties to the lowest channel, and its channel is granted. -/
def Obligations.AllocChannelEvictsTheLeastRecent : Prop :=
  ∀ (s : State) (id : NoteId) (now : Stamp) (v : Channel),
    (∀ j : Channel, s.slots[j].busy = true ∧ s.slots[j].dual = false ∧ s.slots[j].owner ≠ id) →
    (∀ i j : Channel, s.slots[i].owner = s.slots[j].owner → i = j) →
    (∀ j : Channel, j ≠ v →
      s.slots[v].stamp < s.slots[j].stamp ∨ (s.slots[v].stamp = s.slots[j].stamp ∧ v < j)) →
    exec (.allocChannel id now) s = .next { s with
      slots := s.slots.set v { busy := true, owner := id, stamp := now, dual := false }
      resp := s.resp ++ [[0x00, 1, BitVec.ofNat 8 v, 0xFF, 1] ++ bytesNoteId s.slots[v].owner ++ [0, 0, 0]]
      port := s.port.tail }

/-- 41_allocator.md R141, R143, R146 step 3: in a well-shaped arena with all nine channels busy, whatever their voice type,
the victim is the allocation with the least key; all its channels are freed and its lowest is granted. -/
def Obligations.AllocChannelEvictsAnyVoiceType : Prop :=
  ∀ (s : State) (id : NoteId) (now : Stamp) (v : Channel),
    Arena.wellShaped s.slots → (∀ j : Channel, s.slots[j].busy = true ∧ s.slots[j].owner ≠ id) →
    (∀ j : Channel, j ≠ v →
      s.slots[v].stamp < s.slots[j].stamp ∨ (s.slots[v].stamp = s.slots[j].stamp ∧ v < j)) →
    exec (.allocChannel id now) s = .next { s with
      slots := Vector.ofFn fun j =>
        if j = v then { busy := true, owner := id, stamp := now, dual := false }
        else if s.slots[j].owner = s.slots[v].owner then Slot.free else s.slots[j]
      resp := s.resp ++ [[0x00, 1, BitVec.ofNat 8 v, 0xFF, 1] ++ bytesNoteId s.slots[v].owner ++ [0, 0, 0]]
      port := s.port.tail }

/-- 41_allocator.md R147: the single path never fails and evicts at most one allocation, in every arena. -/
def Obligations.SinglePathNeverFails : Prop :=
  ∀ (a : Arena) (id : NoteId) (now : Stamp),
    (allocSingle a id now).status = .ok ∧ (allocSingle a id now).evicted.length ≤ 1

/-! ## ALLOC_DUAL -/

/-- 41_allocator.md R149, R153 steps 1 and 4: with a pair among the channels that are free or the requester's own, the pair
is granted, the requester's other channels are freed, and nothing is evicted, under either policy. -/
def Obligations.AllocDualGrantsThePreferredPair : Prop :=
  ∀ (s : State) (id : NoteId) (now : Stamp) (c0 c1 : Channel),
    isPairOf (fun c => s.slots[c].busy = false ∨ Arena.holds s.slots id c) c0 c1 →
    exec (.allocDual id now) s = .next { s with
      slots := Vector.ofFn fun j =>
        if j = c0 ∨ j = c1 then { busy := true, owner := id, stamp := now, dual := true }
        else if Arena.holds s.slots id j then Slot.free else s.slots[j]
      resp := s.resp ++ [[0x00, 2, BitVec.ofNat 8 c0, BitVec.ofNat 8 c1, 0, 0, 0, 0, 0, 0, 0]]
      port := s.port.tail }

/-- 41_allocator.md R153 step 2, R156: with all nine channels held by single-voice allocations, none the requester's, the
two with the least keys are evicted, oldest first, and their channels granted, under either policy. -/
def Obligations.AllocDualEvictsTheTwoOldestSingles : Prop :=
  ∀ (s : State) (id : NoteId) (now : Stamp) (v w : Channel),
    (∀ j : Channel, s.slots[j].busy = true ∧ s.slots[j].dual = false ∧ s.slots[j].owner ≠ id) →
    (∀ i j : Channel, s.slots[i].owner = s.slots[j].owner → i = j) →
    v ≠ w →
    (∀ j : Channel, j ≠ v →
      s.slots[v].stamp < s.slots[j].stamp ∨ (s.slots[v].stamp = s.slots[j].stamp ∧ v < j)) →
    (∀ j : Channel, j ≠ v → j ≠ w →
      s.slots[w].stamp < s.slots[j].stamp ∨ (s.slots[w].stamp = s.slots[j].stamp ∧ w < j)) →
    exec (.allocDual id now) s = .next { s with
      slots := (s.slots.set v { busy := true, owner := id, stamp := now, dual := true }).set w
        { busy := true, owner := id, stamp := now, dual := true }
      resp := s.resp ++ [[0x00, 2, BitVec.ofNat 8 (min v w), BitVec.ofNat 8 (max v w), 2] ++
        bytesNoteId s.slots[v].owner ++ bytesNoteId s.slots[w].owner]
      port := s.port.tail }

/-- 41_allocator.md R149, R150, R153, R154: under ANY_TYPE ALLOC_DUAL always grants two channels, with status 0x00. Under
either policy a grant of two takes the preferred pair of the channels that are free, the requester's own, or an evicted
identity's; a grant of one takes the only such channel, with status 0x01 and a DEGRADED record. The other channels of the
requester and of the evicted are freed, every other slot is as before, and the evicted are reported in order.
StealingIsBoundedAndProtectsDualNotes says which identities are evicted. -/
def Obligations.AnyTypeAlwaysGrantsTwoChannels : Prop :=
  ∀ (s : State) (id : NoteId) (now : Stamp),
    let g := allocDual s.cfg.dualStealPolicy s.slots id now
    let taken := fun c : Channel => s.slots[c].busy = true ∧ (s.slots[c].owner = id ∨ s.slots[c].owner ∈ g.evicted)
    let granted : Slot := { busy := true, owner := id, stamp := now, dual := true }
    let evictedField : List Byte := BitVec.ofNat 8 g.evicted.length ::
      match g.evicted with
      | [] => [0, 0, 0, 0, 0, 0]
      | [v] => bytesNoteId v ++ [0, 0, 0]
      | v :: w :: _ => bytesNoteId v ++ bytesNoteId w
    (s.cfg.dualStealPolicy = .anyType → g.status = .ok) ∧
    (g.status = .ok → ∃ c0 c1 : Channel, isPairOf (fun c => s.slots[c].busy = false ∨ taken c) c0 c1 ∧
      exec (.allocDual id now) s = .next { s with
        slots := Vector.ofFn fun j =>
          if j = c0 ∨ j = c1 then granted
          else if s.slots[j].busy = true ∧ (s.slots[j].owner = id ∨ s.slots[j].owner ∈ g.evicted) then Slot.free
          else s.slots[j]
        resp := s.resp ++ [[0x00, 2, BitVec.ofNat 8 c0, BitVec.ofNat 8 c1] ++ evictedField]
        port := s.port.tail }) ∧
    (g.status = .degraded → ∃ c : Channel, (s.slots[c].busy = false ∨ taken c) ∧
      (∀ j : Channel, s.slots[j].busy = false ∨ taken j → j = c) ∧
      exec (.allocDual id now) s = .next { s with
        slots := s.slots.set c granted
        diag := s.diag ++ [.degraded id c]
        resp := s.resp ++ [[0x01, 1, BitVec.ofNat 8 c, 0xFF] ++ evictedField]
        port := s.port.tail })

/-- 41_allocator.md R155: under SINGLE_ONLY the outcome is decided by the free channels `f` and the single-voice allocations
`n` left once the requester's own allocation is released. -/
def Obligations.SingleOnlyOutcomeIsDecidedByCounts : Prop :=
  ∀ (a : Arena) (id : NoteId) (now : Stamp), Arena.wellShaped a →
    let f := (List.finRange 9).countP fun c => !a[c].busy || a[c].owner == id
    let n := (List.finRange 9).countP fun c => a[c].busy && a[c].owner != id && !a[c].dual
    (allocDual .singleOnly a id now).status = if 2 ≤ f + n then .ok else if f + n = 1 then .degraded else .fail

/-- 41_allocator.md R150, R155, 42_engine.md R184: under SINGLE_ONLY, with one channel free and every other held by
dual-voice notes, none the requester's, a dual-voice request is granted that channel alone, flagged dual, with a DEGRADED
record and status 0x01. A NOTE_ON then plays voice1 alone, and DEGRADED comes before any FREQ_FALLBACK. -/
def Obligations.DualRequestDegradesToVoiceOne : Prop :=
  ∀ (s : State) (id : NoteId) (now : Stamp) (c : Channel),
    s.cfg.dualStealPolicy = .singleOnly → s.slots[c].busy = false →
    (∀ j : Channel, j ≠ c → s.slots[j].busy = true ∧ s.slots[j].dual = true ∧ s.slots[j].owner ≠ id) →
    exec (.allocDual id now) s = .next { s with
      slots := s.slots.set c { busy := true, owner := id, stamp := now, dual := true }
      diag := s.diag ++ [.degraded id c]
      resp := s.resp ++ [[0x01, 1, BitVec.ofNat 8 c, 0xFF, 0, 0, 0, 0, 0, 0, 0]]
      port := s.port.tail } ∧
    ∀ (velocity : Byte) (v1 v2 : Voice), id.note.toNat ≤ 127 → s.wq.length + 13 ≤ s.cfg.wqDepth →
      let n := effNote id.note v1
      let e := s.cfg.freqTable[n]
      exec (.noteOn id.track id.note velocity now ⟨true, v1, some v2⟩) s = .next { s with
        slots := s.slots.set c { busy := true, owner := id, stamp := now, dual := true }
        keyshadow := s.keyshadow.set c (keyOnByte s.cfg.regmap e)
        wq := s.wq ++ encodeVoice s.cfg.regmap c v1 ++
          [⟨s.cfg.regmap.fnumLoBase + BitVec.ofNat 16 c, fnumLoByte e⟩,
           ⟨s.cfg.regmap.keyBase + BitVec.ofNat 16 c, keyOnByte s.cfg.regmap e⟩]
        diag := s.diag ++ [.degraded id c] ++ (if e.fallback then [.freqFallback c n] else [])
        resp := s.resp ++ [[0x01, 1, BitVec.ofNat 8 c, 0xFF, 0, 0, 0, 0, 0, 0, 0]]
        port := s.port.tail }

/-- 41_allocator.md R151, R155, 42_engine.md R189: a dual-voice request that fails, ALLOC_DUAL or NOTE_ON, appends one
ALLOC_FAILED record and one response and changes nothing else. Under SINGLE_ONLY it fails when every channel is held by
another identity's dual-voice note. -/
def Obligations.DualRequestFailsWithoutChange : Prop :=
  ∀ (s : State) (id : NoteId) (now : Stamp),
    ((allocDual s.cfg.dualStealPolicy s.slots id now).status = .fail →
      exec (.allocDual id now) s = .next { s with
        diag := s.diag ++ [.allocFailed id]
        resp := s.resp ++ [[0x02, 0, 0xFF, 0xFF, 0, 0, 0, 0, 0, 0, 0]]
        port := s.port.tail } ∧
      ∀ (velocity : Byte) (v1 v2 : Voice), id.note.toNat ≤ 127 →
        exec (.noteOn id.track id.note velocity now ⟨true, v1, some v2⟩) s = .next { s with
          diag := s.diag ++ [.allocFailed id]
          resp := s.resp ++ [[0x02, 0, 0xFF, 0xFF, 0, 0, 0, 0, 0, 0, 0]]
          port := s.port.tail }) ∧
    (s.cfg.dualStealPolicy = .singleOnly →
      (∀ j : Channel, s.slots[j].busy = true ∧ s.slots[j].dual = true ∧ s.slots[j].owner ≠ id) →
      (allocDual s.cfg.dualStealPolicy s.slots id now).status = .fail)

/-- 41_allocator.md R141, R148, R153 steps 2 and 3, R156, R157: which identities `allocDual` evicts, and in which order. With
`gone` the identities evicted so far, `freeCount gone` channels are free and `rest gone` are the live allocations left, the
requester's own released. Each victim is evicted while fewer than two channels are free. It is the single-voice allocation
left with the least key, or, under ANY_TYPE and with no single-voice allocation left, the allocation left with the least key.
Stealing stops only when two channels are free or no such victim is left. -/
def Obligations.StealingIsBoundedAndProtectsDualNotes : Prop :=
  ∀ (policy : StealPolicy) (a : Arena) (id : NoteId) (now : Stamp),
    let evicted := (allocDual policy a id now).evicted
    let freeCount := fun gone : List NoteId =>
      (List.finRange 9).countP fun c => !a[c].busy || a[c].owner == id || gone.contains a[c].owner
    let rest := fun gone : List NoteId => (Arena.live a).filter fun x => x.noteId != id && !gone.contains x.noteId
    evicted.length ≤ 2 ∧
    (∀ pre v post, evicted = pre ++ v :: post →
      freeCount pre < 2 ∧ ∃ x ∈ rest pre, x.noteId = v ∧
        (x.isDualVoice = true → policy = .anyType ∧ ∀ y ∈ rest pre, y.isDualVoice = true) ∧
        ∀ y ∈ rest pre, y.isDualVoice = x.isDualVoice → y ≠ x →
          x.timestamp < y.timestamp ∨ (x.timestamp = y.timestamp ∧ x.lowest < y.lowest)) ∧
    (2 ≤ freeCount evicted ∨ ∀ y ∈ rest evicted, policy = .singleOnly ∧ y.isDualVoice = true)

/-! ## RELEASE_NOTE, statistics, GET_ALLOCATION, RESET_ALLOCATOR -/

/-- 41_allocator.md R139, R158, R159: the channels the identity holds are freed and reported, ascending; every other slot is
as before. -/
def Obligations.ReleaseNoteFreesItsChannels : Prop :=
  ∀ (s : State) (id : NoteId),
    exec (.releaseNote id) s = .next { s with
      slots := Vector.ofFn fun j => if Arena.holds s.slots id j then Slot.free else s.slots[j]
      resp := s.resp ++
        [0x00 :: channelsPayload ((List.finRange 9).filter fun j => decide (Arena.holds s.slots id j))]
      port := s.port.tail }

/-- 10_state.md R39, 41_allocator.md R161, R162, 42_engine.md R205, R206: GET_STATS and GET_CHANNEL_STATS report the same
three counts and change nothing but the response log and the command stream. -/
def Obligations.StatisticsCommandsOnlyReport : Prop :=
  ∀ s : State,
    let free := (List.finRange 9).countP fun c => !s.slots[c].busy
    let allocated := (List.finRange 9).countP fun c => s.slots[c].busy
    let dual := ((Arena.live s.slots).filter fun x => x.isDualVoice).length
    let reply := [0x00, BitVec.ofNat 8 free, BitVec.ofNat 8 allocated, BitVec.ofNat 8 dual]
    exec .getStats s = .next { s with resp := s.resp ++ [reply], port := s.port.tail } ∧
      exec .getChannelStats s = .next { s with resp := s.resp ++ [reply], port := s.port.tail } ∧
      free + allocated = 9

/-- 41_allocator.md R163, R164: GET_ALLOCATION reports the identity's channels, flag and stamp, those of its lowest channel
`c`, or its absence, and changes nothing but the response log and the command stream. -/
def Obligations.GetAllocationOnlyReports : Prop :=
  ∀ (s : State) (id : NoteId),
    (Arena.idle s.slots id →
      exec (.getAllocation id) s = .next { s with
        resp := s.resp ++ [[0x00, 0, 0, 0xFF, 0xFF, 0, 0, 0, 0, 0]], port := s.port.tail }) ∧
    ∀ c : Channel, Arena.holds s.slots id c → (∀ j : Channel, j < c → ¬Arena.holds s.slots id j) →
      exec (.getAllocation id) s = .next { s with
        resp := s.resp ++ [[0x00, 1] ++
          channelsPayload ((List.finRange 9).filter fun j => decide (Arena.holds s.slots id j)) ++
          [if s.slots[c].dual then 1 else 0] ++ bytes32 s.slots[c].stamp]
        port := s.port.tail }

/-- 41_allocator.md R166, R167: RESET_ALLOCATOR frees every slot and touches no key shadow, queue, chip log or diagnostic
log. -/
def Obligations.ResetAllocatorFreesEverySlot : Prop :=
  ∀ s : State,
    exec .resetAllocator s = .next { s with
      slots := Vector.replicate 9 Slot.free, resp := s.resp ++ [[0x00]], port := s.port.tail }

/-! ## NOTE_ON -/

/-- 42_engine.md R179, R207, 60_exceptions.md R244, R246: an out-of-range operand of NOTE_ON, NOTE_OFF or LOAD_PATCH leaves one
record and one response, whatever the queue holds. -/
def Obligations.OutOfRangeOperandsAreRejected : Prop :=
  ∀ (s : State) (track : TrackId) (x velocity : Byte) (now : Stamp) (patch : Patch),
    (127 < x.toNat →
      exec (.noteOn track x velocity now patch) s = .next { s with
        diag := s.diag ++ [.invalidInput 0x01 .note x], resp := s.resp ++ [[0x03]], port := s.port.tail } ∧
      exec (.noteOff track x) s = .next { s with
        diag := s.diag ++ [.invalidInput 0x02 .note x], resp := s.resp ++ [[0x03]], port := s.port.tail }) ∧
    (8 < x.toNat →
      exec (.loadPatch x patch) s = .next { s with
        diag := s.diag ++ [.invalidInput 0x05 .channel x], resp := s.resp ++ [[0x03]], port := s.port.tail })

/-- 42_engine.md R184, R186, single path: an idle identity takes the lowest free channel, programs voice1 on it, writes the
F-number low byte and then the key byte; 13 writes. -/
def Obligations.NoteOnSoundsTheLowestFreeChannel : Prop :=
  ∀ (s : State) (track : TrackId) (note velocity : Byte) (now : Stamp) (patch : Patch) (c : Channel),
    note.toNat ≤ 127 → ¬(patch.dualVoiceEnabled = true ∧ patch.voice2 ≠ none) →
    Arena.idle s.slots ⟨track, note⟩ → s.slots[c].busy = false → (∀ j : Channel, j < c → s.slots[j].busy = true) →
    s.wq.length + 13 ≤ s.cfg.wqDepth →
    let n := effNote note patch.voice1
    let e := s.cfg.freqTable[n]
    exec (.noteOn track note velocity now patch) s = .next { s with
      slots := s.slots.set c { busy := true, owner := ⟨track, note⟩, stamp := now, dual := false }
      keyshadow := s.keyshadow.set c (keyOnByte s.cfg.regmap e)
      wq := s.wq ++ encodeVoice s.cfg.regmap c patch.voice1 ++
        [⟨s.cfg.regmap.fnumLoBase + BitVec.ofNat 16 c, fnumLoByte e⟩,
         ⟨s.cfg.regmap.keyBase + BitVec.ofNat 16 c, keyOnByte s.cfg.regmap e⟩]
      diag := s.diag ++ (if e.fallback then [.freqFallback c n] else [])
      resp := s.resp ++ [[0x00, 1, BitVec.ofNat 8 c, 0xFF, 0, 0, 0, 0, 0, 0, 0]]
      port := s.port.tail }

/-- 42_engine.md R188, single path: a NOTE_ON for an identity that sounds on one channel with the flag clear re-programs and
re-keys that channel, with no key-off and no slot changed, the stamp included. -/
def Obligations.NoteOnRetriggerKeepsChannelAndStamp : Prop :=
  ∀ (s : State) (track : TrackId) (note velocity : Byte) (now : Stamp) (patch : Patch) (c : Channel),
    note.toNat ≤ 127 → ¬(patch.dualVoiceEnabled = true ∧ patch.voice2 ≠ none) →
    Arena.holds s.slots ⟨track, note⟩ c → s.slots[c].dual = false →
    (∀ j : Channel, Arena.holds s.slots ⟨track, note⟩ j → j = c) →
    s.wq.length + 13 ≤ s.cfg.wqDepth →
    let n := effNote note patch.voice1
    let e := s.cfg.freqTable[n]
    exec (.noteOn track note velocity now patch) s = .next { s with
      keyshadow := s.keyshadow.set c (keyOnByte s.cfg.regmap e)
      wq := s.wq ++ encodeVoice s.cfg.regmap c patch.voice1 ++
        [⟨s.cfg.regmap.fnumLoBase + BitVec.ofNat 16 c, fnumLoByte e⟩,
         ⟨s.cfg.regmap.keyBase + BitVec.ofNat 16 c, keyOnByte s.cfg.regmap e⟩]
      diag := s.diag ++ (if e.fallback then [.freqFallback c n] else [])
      resp := s.resp ++ [[0x00, 1, BitVec.ofNat 8 c, 0xFF, 0, 0, 0, 0, 0, 0, 0]]
      port := s.port.tail }

/-- 42_engine.md R183, R184, R186, dual path: both channels of the pair are programmed, voice1 on the lower, before either
is keyed on; 26 writes; each voice at its own effective note. -/
def Obligations.NoteOnSoundsBothVoices : Prop :=
  ∀ (s : State) (track : TrackId) (note velocity : Byte) (now : Stamp) (v1 v2 : Voice) (c0 c1 : Channel),
    note.toNat ≤ 127 →
    isPairOf (fun c => s.slots[c].busy = false ∨ Arena.holds s.slots ⟨track, note⟩ c) c0 c1 →
    s.wq.length + 26 ≤ s.cfg.wqDepth →
    let n1 := effNote note v1
    let n2 := effNote note v2
    let e1 := s.cfg.freqTable[n1]
    let e2 := s.cfg.freqTable[n2]
    exec (.noteOn track note velocity now ⟨true, v1, some v2⟩) s = .next { s with
      slots := Vector.ofFn fun j =>
        if j = c0 ∨ j = c1 then { busy := true, owner := ⟨track, note⟩, stamp := now, dual := true }
        else if Arena.holds s.slots ⟨track, note⟩ j then Slot.free else s.slots[j]
      keyshadow := (s.keyshadow.set c0 (keyOnByte s.cfg.regmap e1)).set c1 (keyOnByte s.cfg.regmap e2)
      wq := s.wq ++ encodeVoice s.cfg.regmap c0 v1 ++ encodeVoice s.cfg.regmap c1 v2 ++
        [⟨s.cfg.regmap.fnumLoBase + BitVec.ofNat 16 c0, fnumLoByte e1⟩,
         ⟨s.cfg.regmap.keyBase + BitVec.ofNat 16 c0, keyOnByte s.cfg.regmap e1⟩,
         ⟨s.cfg.regmap.fnumLoBase + BitVec.ofNat 16 c1, fnumLoByte e2⟩,
         ⟨s.cfg.regmap.keyBase + BitVec.ofNat 16 c1, keyOnByte s.cfg.regmap e2⟩]
      diag := s.diag ++ (if e1.fallback then [.freqFallback c0 n1] else []) ++
        (if e2.fallback then [.freqFallback c1 n2] else [])
      resp := s.resp ++ [[0x00, 2, BitVec.ofNat 8 c0, BitVec.ofNat 8 c1, 0, 0, 0, 0, 0, 0, 0]]
      port := s.port.tail }

/-- 42_engine.md R184 step 2: an admitted NOTE_ON leaves the arena and gives the response that ALLOC_DUAL (eligible patch) or
ALLOC_CHANNEL (any other) gives for the same identity and time, evictions included. -/
def Obligations.NoteOnAllocatesLikeTheAllocator : Prop :=
  ∀ (s : State) (track : TrackId) (note velocity : Byte) (now : Stamp) (patch : Patch),
    note.toNat ≤ 127 → s.wq.length + 26 ≤ s.cfg.wqDepth →
    ∃ t u, exec (.noteOn track note velocity now patch) s = .next t ∧
      exec (if patch.dualVoiceEnabled = true ∧ patch.voice2 ≠ none then .allocDual ⟨track, note⟩ now
        else .allocChannel ⟨track, note⟩ now) s = .next u ∧
      t.slots = u.slots ∧ t.resp = u.resp ∧ t.port = u.port ∧ u.diag <+: t.diag

/-- 42_engine.md R183, R184, R186: whatever the allocation had to evict or release, an admitted NOTE_ON writes exactly this:
nothing when it fails, voice1 and its key when it is granted one channel, and both voices before both keys when it is granted
two. -/
def Obligations.NoteOnProgramsWhatItIsGranted : Prop :=
  ∀ (s : State) (track : TrackId) (note velocity : Byte) (now : Stamp) (patch : Patch),
    Arena.wellShaped s.slots → note.toNat ≤ 127 → s.wq.length + 26 ≤ s.cfg.wqDepth →
    let g := noteOnGrant s ⟨track, note⟩ now patch
    let m := s.cfg.regmap
    let entry := fun v : Voice => s.cfg.freqTable[effNote note v]
    let key := fun (c : Channel) (v : Voice) => ([⟨m.fnumLoBase + BitVec.ofNat 16 c, fnumLoByte (entry v)⟩,
      ⟨m.keyBase + BitVec.ofNat 16 c, keyOnByte m (entry v)⟩] : List RegWrite)
    ∃ t, exec (.noteOn track note velocity now patch) s = .next t ∧ t.slots = g.slots ∧ g.channels.length ≤ 2 ∧
      (g.channels = [] → t.wq = s.wq ∧ t.keyshadow = s.keyshadow) ∧
      (∀ c : Channel, g.channels = [c] →
        t.wq = s.wq ++ encodeVoice m c patch.voice1 ++ key c patch.voice1 ∧
          t.keyshadow = s.keyshadow.set c (keyOnByte m (entry patch.voice1))) ∧
      ∀ c0 c1 : Channel, g.channels = [c0, c1] → ∃ v2 : Voice, patch.voice2 = some v2 ∧
        t.wq = s.wq ++ encodeVoice m c0 patch.voice1 ++ encodeVoice m c1 v2 ++ key c0 patch.voice1 ++ key c1 v2 ∧
        t.keyshadow = (s.keyshadow.set c0 (keyOnByte m (entry patch.voice1))).set c1 (keyOnByte m (entry v2))

/-! ## NOTE_OFF, ALL_NOTES_OFF, LOAD_PATCH -/

/-- 42_engine.md R198, R200: one key-off write for each channel the identity holds, ascending, of that channel's shadow with
the key-on bit clear; the channels are freed and reported. An identity that holds nothing is the case of no channel. -/
def Obligations.NoteOffKeysOffItsChannels : Prop :=
  ∀ (s : State) (track : TrackId) (note : Byte),
    note.toNat ≤ 127 →
    let held := (List.finRange 9).filter fun j => decide (Arena.holds s.slots ⟨track, note⟩ j)
    (held = [] ∨ s.wq.length + held.length ≤ s.cfg.wqDepth) →
    exec (.noteOff track note) s = .next { s with
      slots := Vector.ofFn fun j => if j ∈ held then Slot.free else s.slots[j]
      keyshadow := Vector.ofFn fun j => if j ∈ held then keyOffByte s.cfg.regmap s.keyshadow[j] else s.keyshadow[j]
      wq := s.wq ++ held.map fun j =>
        ⟨s.cfg.regmap.keyBase + BitVec.ofNat 16 j, keyOffByte s.cfg.regmap s.keyshadow[j]⟩
      resp := s.resp ++ [0x00 :: channelsPayload held]
      port := s.port.tail }

/-- 42_engine.md R199: the NOTE_OFF of a note whose allocation was stolen, in an arena as the thief's ALLOC_CHANNEL left it,
writes nothing and changes no slot. -/
def Obligations.StolenNoteOffIsANoOp : Prop :=
  ∀ (s t : State) (id : NoteId) (track : TrackId) (note : Byte) (now : Stamp),
    note.toNat ≤ 127 → id ≠ ⟨track, note⟩ → exec (.allocChannel id now) s = .next t →
    ⟨track, note⟩ ∈ (allocSingle s.slots id now).evicted →
    exec (.noteOff track note) t = .next { t with
      resp := t.resp ++ [[0x00, 0, 0xFF, 0xFF]], port := t.port.tail }

/-- 42_engine.md R202, R203: nine key-off writes, ascending; every shadow's key-on bit cleared; every busy slot freed; the
response counts the allocations there were. -/
def Obligations.AllNotesOffKeysOffNineChannels : Prop :=
  ∀ s : State, s.wq.length + 9 ≤ s.cfg.wqDepth →
    exec .allNotesOff s = .next { s with
      slots := Vector.ofFn fun j => if s.slots[j].busy then Slot.free else s.slots[j]
      keyshadow := Vector.ofFn fun j => keyOffByte s.cfg.regmap s.keyshadow[j]
      wq := s.wq ++ (List.finRange 9).map fun j =>
        ⟨s.cfg.regmap.keyBase + BitVec.ofNat 16 j, keyOffByte s.cfg.regmap s.keyshadow[j]⟩
      resp := s.resp ++ [[0x00, BitVec.ofNat 8 (Arena.live s.slots).length]]
      port := s.port.tail }

/-- 42_engine.md R207, R208: LOAD_PATCH programs voice1 on the channel named, 11 writes, and touches no slot and no shadow. -/
def Obligations.LoadPatchProgramsVoiceOne : Prop :=
  ∀ (s : State) (ch : Byte) (c : Channel) (patch : Patch),
    ch.toNat = c.val → s.wq.length + 11 ≤ s.cfg.wqDepth →
    exec (.loadPatch ch patch) s = .next { s with
      wq := s.wq ++ encodeVoice s.cfg.regmap c patch.voice1, resp := s.resp ++ [[0x00]], port := s.port.tail }

/-- 42_engine.md R212: NOTE_ON for an idle identity that evicts nothing, then its NOTE_OFF, leave the arena as it was, and
each channel of the pair with its key-on flag clear. -/
def Obligations.NoteOnThenNoteOffRestoresTheArena : Prop :=
  ∀ (s : State) (track : TrackId) (note velocity : Byte) (now : Stamp) (patch : Patch),
    note.toNat ≤ 127 → s.cfg.regmap = regmapDefault → Arena.freeZeroed s.slots → Arena.idle s.slots ⟨track, note⟩ →
    (noteOnGrant s ⟨track, note⟩ now patch).evicted = [] → s.wq.length + 28 ≤ s.cfg.wqDepth →
    ∃ t u, exec (.noteOn track note velocity now patch) s = .next t ∧ exec (.noteOff track note) t = .next u ∧
      u.slots = s.slots ∧
      ∀ c : Channel, Arena.holds t.slots ⟨track, note⟩ c →
        t.keyshadow[c].getLsbD 5 = true ∧ u.keyshadow[c].getLsbD 5 = false

/-! ## Admission -/

/-- 20_memory.md R63, 42_engine.md R187: a command whose writes do not fit in the queue is held: it changes nothing and
consumes no packet. -/
def Obligations.HeldCommandChangesNothing : Prop :=
  ∀ (i : Instr) (s : State), writeCount i s ≠ 0 → s.cfg.wqDepth < s.wq.length + writeCount i s →
    exec i s = .next s

/-- 10_state.md R40, R42, 20_memory.md R63: every other command commits in one step: it appends to the queue, the diagnostic
log and the response log, consumes one packet, and leaves the audio agent's side alone. -/
def Obligations.AdmittedCommandCommits : Prop :=
  ∀ (i : Instr) (s : State), i ≠ .render →
    (writeCount i s = 0 ∨ s.wq.length + writeCount i s ≤ s.cfg.wqDepth) →
    ∃ (a : Arena) (k : KeyShadow) (ws : List RegWrite) (ds : List Diag) (r : Response),
      ws.length = writeCount i s ∧
      exec i s = .next { s with
        slots := a, keyshadow := k, wq := s.wq ++ ws, diag := s.diag ++ ds, resp := s.resp ++ [r],
        port := s.port.tail }

/-- 00_scope.md R7, 20_memory.md R63, 70_reset_and_hazards.md R282: with parameters as R7 and R8 demand, no command emits more
writes than the queue holds, so after a RENDER every command is admitted. -/
def Obligations.RenderLiftsEveryHold : Prop :=
  ∀ (i : Instr) (s t : State), Config.wellFormed s.cfg = true → i ≠ .render → exec .render s = .next t →
    writeCount i t ≤ 26 ∧ ∃ u, exec i t = .next u ∧ u.port = t.port.tail ∧ u.resp.length = t.resp.length + 1

/-! ## RENDER -/

/-- 43_bridge.md R219, R222, 20_memory.md R65: RENDER delivers the whole queue, in order, before it asks for a sample. With
MAX_CHIP_CHUNK at least 1 its calls of `chipGenerate` are full chunks and then the rest, which fill the buffer exactly. -/
def Obligations.RenderDrainsAndThenGeneratesInChunks : Prop :=
  ∀ s : State, ∃ (t : State) (sizes : List Nat),
    exec .render s = .next t ∧ t.wq = [] ∧ t.chipLog = s.chipLog ++ s.wq ∧
      t.chip = s.chip ++ s.wq.map (fun w => .write w.addr w.val) ++ sizes.map .generate ∧
      (1 ≤ s.cfg.maxChipChunk →
        sizes = chunkSizes s.cfg.hostBufferLen s.cfg.maxChipChunk ∧
          sizes.length = (s.cfg.hostBufferLen + s.cfg.maxChipChunk - 1) / s.cfg.maxChipChunk ∧
          sizes.sum = s.cfg.hostBufferLen ∧ ∀ k ∈ sizes, 1 ≤ k ∧ k ≤ s.cfg.maxChipChunk)

/-- 43_bridge.md R221, R223, R224, R228: RENDER writes every index of both buffers with the converted sample of its place in
the stream, no index beyond them, and leaves the control agent's side alone. -/
def Obligations.RenderFillsBothBuffers : Prop :=
  ∀ s : State, 1 ≤ s.cfg.maxChipChunk →
    let stream := sampleStream Config.chipGenerate (s.chip ++ s.wq.map fun w => .write w.addr w.val)
      (chunkSizes s.cfg.hostBufferLen s.cfg.maxChipChunk)
    ∃ t : State, exec .render s = .next t ∧ stream.length = s.cfg.hostBufferLen ∧
      (∀ (i : Nat) (x : Sample), stream[i]? = some x →
        Memory.read t.bufL i = some (toF32 x) ∧ Memory.read t.bufR i = some (toF32 x)) ∧
      (∀ i, s.cfg.hostBufferLen ≤ i →
        Memory.read t.bufL i = Memory.read s.bufL i ∧ Memory.read t.bufR i = Memory.read s.bufR i) ∧
      t = { s with wq := [], chipLog := t.chipLog, chip := t.chip, bufL := t.bufL, bufR := t.bufR }

/-- 43_bridge.md R220: the conversion is exact division by 32768, and zero is +0.0. -/
def Obligations.SampleConversionIsExact : Prop :=
  ∀ x : Sample, f32Value (toF32 x) = (x.toInt : ℚ) / 32768 ∧ (x = 0 → toF32 x = 0) ∧
    -1 ≤ f32Value (toF32 x) ∧ f32Value (toF32 x) ≤ 32767 / 32768

/-! ## Frames over all commands -/

/-- 41_allocator.md R136, R167, 70_reset_and_hazards.md R287, 10_state.md R23: the allocator and introspection commands emit
nothing and touch no key shadow; LOAD_PATCH touches no slot. -/
def Obligations.AllocatorCommandsEmitNothing : Prop :=
  ∀ (i : Instr) (s t : State), exec i s = .next t →
    ((∃ id now, i = .allocChannel id now) ∨ (∃ id now, i = .allocDual id now) ∨ (∃ id, i = .releaseNote id) ∨
        i = .getStats ∨ i = .getChannelStats ∨ (∃ id, i = .getAllocation id) ∨ i = .resetAllocator →
      t.wq = s.wq ∧ t.keyshadow = s.keyshadow) ∧
    ((∃ ch p, i = .loadPatch ch p) → t.slots = s.slots ∧ t.keyshadow = s.keyshadow)

/-- 60_exceptions.md R251: a command that ends with status 0x02, 0x03 or 0x04 has changed nothing but `resp` and `diag`, to
which it appended one record, and consumed its packet. -/
def Obligations.ErrorsArePrecise : Prop :=
  ∀ (i : Instr) (s t : State) (status : Byte) (payload : List Byte),
    exec i s = .next t → t.resp = s.resp ++ [status :: payload] →
    status = 0x02 ∨ status = 0x03 ∨ status = 0x04 →
    ∃ d : Diag, t = { s with diag := s.diag ++ [d], resp := s.resp ++ [status :: payload], port := s.port.tail }

/-- 41_allocator.md R168, 42_engine.md R209: what an admitted command commits depends on the parameters, the slot arena, the
key shadow and its operands alone, and an allocator command's response and arena not on the key shadow. -/
def Obligations.CommandsIgnoreTheQueueAndTheLogs : Prop :=
  ∀ (i : Instr) (s u : State), i ≠ .render → s.cfg = u.cfg → s.slots = u.slots →
    s.wq.length + 26 ≤ s.cfg.wqDepth → u.wq.length + 26 ≤ u.cfg.wqDepth →
    ∃ (t v : State) (r : Response) (ds : List Diag),
      exec i s = .next t ∧ exec i u = .next v ∧ t.slots = v.slots ∧ t.resp = s.resp ++ [r] ∧ v.resp = u.resp ++ [r] ∧
      t.diag = s.diag ++ ds ∧ v.diag = u.diag ++ ds ∧
      (s.keyshadow = u.keyshadow →
        t.keyshadow = v.keyshadow ∧ ∃ ws : List RegWrite, t.wq = s.wq ++ ws ∧ v.wq = u.wq ++ ws)

/-! ## Invariants of every step -/

/-- 10_state.md R27, 41_allocator.md R169: every step keeps the arena well-shaped. -/
def Obligations.StepKeepsTheArenaWellShaped : Prop :=
  ∀ s t : State, Arena.wellShaped s.slots → step s = .next t → Arena.wellShaped t.slots

/-- 10_state.md R45: every step keeps every free slot zero. -/
def Obligations.StepKeepsFreeSlotsZero : Prop :=
  ∀ s t : State, Arena.freeZeroed s.slots → step s = .next t → Arena.freeZeroed t.slots

/-- 10_state.md R32: every step keeps the queue within its depth. -/
def Obligations.StepKeepsTheQueueBounded : Prop :=
  ∀ s t : State, s.wq.length ≤ s.cfg.wqDepth → step s = .next t → t.wq.length ≤ t.cfg.wqDepth

/-- 42_engine.md R210, with the default register map: every step keeps each key shadow equal to the last value committed to
its key byte. -/
def Obligations.StepKeepsTheShadowAMirror : Prop :=
  ∀ s t : State, s.cfg.regmap = regmapDefault → State.shadowMirrors s → step s = .next t → State.shadowMirrors t

/-- 20_memory.md R57, 42_engine.md R211, with the default register map: every write the block ever commits has an address of
the register map. -/
def Obligations.StepWritesOnlyTheRegisterMap : Prop :=
  ∀ s t : State, s.cfg.regmap = regmapDefault → State.writesInMap s → step s = .next t → State.writesInMap t

/-- 20_memory.md R55, 43_bridge.md R223: every step keeps both host buffers in their canonical form and within their length. -/
def Obligations.StepKeepsTheBuffersCanonical : Prop :=
  ∀ s t : State, State.buffersOk s → step s = .next t → State.buffersOk t

/-- 10_state.md R34, R36, R37, R41, 20_memory.md R64, 70_reset_and_hazards.md R274: no step removes or reorders anything in the
logs or among the committed writes, none writes a parameter, and at most one packet is consumed, with one response. -/
def Obligations.StepOnlyAppendsToTheLogs : Prop :=
  ∀ s t : State, step s = .next t →
    s.committed <+: t.committed ∧ s.chipLog <+: t.chipLog ∧ s.diag <+: t.diag ∧ s.resp <+: t.resp ∧ t.cfg = s.cfg ∧
      ((t.port = s.port ∧ t.resp = s.resp) ∨ (∃ p, s.port = p :: t.port) ∧ t.resp.length = s.resp.length + 1)
end

