-- ==== Sys2Proof/Laws/State.lean ====
section
/-! SUPPORT. One lemma per field for each update of State and of a command's working copy, true by rfl, so that no proof
unfolds a record update. -/

namespace Sys2Proof.Machine

/-! ## State.commit -/

section Commit
variable (s : State) (p : Plan)
@[simp] theorem commit_cfg : (s.commit p).cfg = s.cfg := rfl
@[simp] theorem commit_slots : (s.commit p).slots = p.slots := rfl
@[simp] theorem commit_keyshadow : (s.commit p).keyshadow = p.keyshadow := rfl
@[simp] theorem commit_wq : (s.commit p).wq = s.wq ++ p.pending := rfl
@[simp] theorem commit_chipLog : (s.commit p).chipLog = s.chipLog := rfl
@[simp] theorem commit_diag : (s.commit p).diag = s.diag ++ p.diags := rfl
@[simp] theorem commit_resp : (s.commit p).resp = s.resp ++ [p.resp] := rfl
@[simp] theorem commit_chip : (s.commit p).chip = s.chip := rfl
@[simp] theorem commit_bufL : (s.commit p).bufL = s.bufL := rfl
@[simp] theorem commit_bufR : (s.commit p).bufR = s.bufR := rfl
@[simp] theorem commit_port : (s.commit p).port = s.port.tail := rfl
@[simp] theorem commit_turns : (s.commit p).turns = s.turns := rfl
end Commit

/-! ## State.deliver -/

section Deliver
variable (s : State) (w : RegWrite)
@[simp] theorem deliver_cfg : (s.deliver w).cfg = s.cfg := rfl
@[simp] theorem deliver_slots : (s.deliver w).slots = s.slots := rfl
@[simp] theorem deliver_keyshadow : (s.deliver w).keyshadow = s.keyshadow := rfl
@[simp] theorem deliver_wq : (s.deliver w).wq = s.wq.tail := rfl
@[simp] theorem deliver_chipLog : (s.deliver w).chipLog = s.chipLog ++ [w] := rfl
@[simp] theorem deliver_diag : (s.deliver w).diag = s.diag := rfl
@[simp] theorem deliver_resp : (s.deliver w).resp = s.resp := rfl
@[simp] theorem deliver_chip : (s.deliver w).chip = s.chip ++ [w.event] := rfl
@[simp] theorem deliver_bufL : (s.deliver w).bufL = s.bufL := rfl
@[simp] theorem deliver_bufR : (s.deliver w).bufR = s.bufR := rfl
@[simp] theorem deliver_port : (s.deliver w).port = s.port := rfl
@[simp] theorem deliver_turns : (s.deliver w).turns = s.turns := rfl
end Deliver

/-! ## State.hostWriteBoth -/

section HostWrite
variable (s : State) (i : Nat) (x : F32)
@[simp] theorem hostWriteBoth_cfg : (s.hostWriteBoth i x).cfg = s.cfg := rfl
@[simp] theorem hostWriteBoth_slots : (s.hostWriteBoth i x).slots = s.slots := rfl
@[simp] theorem hostWriteBoth_keyshadow : (s.hostWriteBoth i x).keyshadow = s.keyshadow := rfl
@[simp] theorem hostWriteBoth_wq : (s.hostWriteBoth i x).wq = s.wq := rfl
@[simp] theorem hostWriteBoth_chipLog : (s.hostWriteBoth i x).chipLog = s.chipLog := rfl
@[simp] theorem hostWriteBoth_diag : (s.hostWriteBoth i x).diag = s.diag := rfl
@[simp] theorem hostWriteBoth_resp : (s.hostWriteBoth i x).resp = s.resp := rfl
@[simp] theorem hostWriteBoth_chip : (s.hostWriteBoth i x).chip = s.chip := rfl
@[simp] theorem hostWriteBoth_bufL : (s.hostWriteBoth i x).bufL = Memory.write s.bufL i x := rfl
@[simp] theorem hostWriteBoth_bufR : (s.hostWriteBoth i x).bufR = Memory.write s.bufR i x := rfl
@[simp] theorem hostWriteBoth_port : (s.hostWriteBoth i x).port = s.port := rfl
@[simp] theorem hostWriteBoth_turns : (s.hostWriteBoth i x).turns = s.turns := rfl
end HostWrite

/-! ## State.takeTurn -/

section TakeTurn
variable (s : State)
@[simp] theorem takeTurn_cfg : s.takeTurn.cfg = s.cfg := rfl
@[simp] theorem takeTurn_slots : s.takeTurn.slots = s.slots := rfl
@[simp] theorem takeTurn_keyshadow : s.takeTurn.keyshadow = s.keyshadow := rfl
@[simp] theorem takeTurn_wq : s.takeTurn.wq = s.wq := rfl
@[simp] theorem takeTurn_chipLog : s.takeTurn.chipLog = s.chipLog := rfl
@[simp] theorem takeTurn_diag : s.takeTurn.diag = s.diag := rfl
@[simp] theorem takeTurn_resp : s.takeTurn.resp = s.resp := rfl
@[simp] theorem takeTurn_chip : s.takeTurn.chip = s.chip := rfl
@[simp] theorem takeTurn_bufL : s.takeTurn.bufL = s.bufL := rfl
@[simp] theorem takeTurn_bufR : s.takeTurn.bufR = s.bufR := rfl
@[simp] theorem takeTurn_port : s.takeTurn.port = s.port := rfl
@[simp] theorem takeTurn_turns : s.takeTurn.turns = s.turns.tail := rfl
end TakeTurn

/-! ## A command's working copy -/

section PlanFields
variable (s : State) (p : Plan) (m : RegMap) (a : Addr) (v : Byte) (c : Channel) (d : Diag) (r : Response)
  (ws : List RegWrite) (g : Granted)
@[simp] theorem start_slots : (Plan.start s).slots = s.slots := rfl
@[simp] theorem start_keyshadow : (Plan.start s).keyshadow = s.keyshadow := rfl
@[simp] theorem start_pending : (Plan.start s).pending = [] := rfl
@[simp] theorem start_diags : (Plan.start s).diags = [] := rfl
@[simp] theorem emit_slots : (p.emit a v).slots = p.slots := rfl
@[simp] theorem emit_keyshadow : (p.emit a v).keyshadow = p.keyshadow := rfl
@[simp] theorem emit_pending : (p.emit a v).pending = p.pending ++ [⟨a, v⟩] := rfl
@[simp] theorem emit_diags : (p.emit a v).diags = p.diags := rfl
@[simp] theorem emit_resp : (p.emit a v).resp = p.resp := rfl
@[simp] theorem emitAll_slots : (p.emitAll ws).slots = p.slots := rfl
@[simp] theorem emitAll_keyshadow : (p.emitAll ws).keyshadow = p.keyshadow := rfl
@[simp] theorem emitAll_pending : (p.emitAll ws).pending = p.pending ++ ws := rfl
@[simp] theorem emitAll_diags : (p.emitAll ws).diags = p.diags := rfl
@[simp] theorem emitAll_resp : (p.emitAll ws).resp = p.resp := rfl
@[simp] theorem emitKey_slots : (p.emitKey m c v).slots = p.slots := rfl
@[simp] theorem emitKey_keyshadow : (p.emitKey m c v).keyshadow = p.keyshadow.set c v := rfl
@[simp] theorem emitKey_pending : (p.emitKey m c v).pending = p.pending ++ [⟨keyAddr m c, v⟩] := rfl
@[simp] theorem emitKey_diags : (p.emitKey m c v).diags = p.diags := rfl
@[simp] theorem emitKey_resp : (p.emitKey m c v).resp = p.resp := rfl
@[simp] theorem raise_slots : (p.raise d).slots = p.slots := rfl
@[simp] theorem raise_keyshadow : (p.raise d).keyshadow = p.keyshadow := rfl
@[simp] theorem raise_pending : (p.raise d).pending = p.pending := rfl
@[simp] theorem raise_diags : (p.raise d).diags = p.diags ++ [d] := rfl
@[simp] theorem raise_resp : (p.raise d).resp = p.resp := rfl
@[simp] theorem reply_slots : (p.reply r).slots = p.slots := rfl
@[simp] theorem reply_keyshadow : (p.reply r).keyshadow = p.keyshadow := rfl
@[simp] theorem reply_pending : (p.reply r).pending = p.pending := rfl
@[simp] theorem reply_diags : (p.reply r).diags = p.diags := rfl
@[simp] theorem reply_resp : (p.reply r).resp = r := rfl
@[simp] theorem takeGrant_slots : (p.takeGrant g).slots = g.slots := rfl
@[simp] theorem takeGrant_keyshadow : (p.takeGrant g).keyshadow = p.keyshadow := rfl
@[simp] theorem takeGrant_pending : (p.takeGrant g).pending = p.pending := rfl
@[simp] theorem takeGrant_diags : (p.takeGrant g).diags = p.diags ++ g.diags := rfl
@[simp] theorem takeGrant_resp : (p.takeGrant g).resp = p.resp := rfl
end PlanFields

end Sys2Proof.Machine
end

