-- ==== Sys2Proof/Laws/Arena.lean ====
section
/-! SUPPORT. What each shared operation over the slot arena can do, said once: the provers cite these and unfold none of
the operations. -/

namespace Sys2Proof.Machine

/-! ## Channels -/

@[simp] theorem mem_channels (c : Channel) : c ∈ channels := by revert c; decide

theorem channels_nodup : channels.Nodup := by decide

theorem channels_sorted : channels.Pairwise (· < ·) := by decide

@[simp] theorem length_channels : channels.length = 9 := rfl

/-! ## Writing slots -/

theorem put_getElem (a : Arena) (c d : Channel) (x : Slot) : (Arena.put a c x)[d] = if c = d then x else a[d] := by
  simp [Arena.put, Vector.getElem_set, Fin.ext_iff]

/-- Writing one value to every channel of a list changes those channels and no other. -/
theorem putAll_getElem (a : Arena) (cs : List Channel) (x : Slot) (d : Channel) :
    (Arena.putAll a cs x)[d] = if d ∈ cs then x else a[d] := by
  induction cs generalizing a with
  | nil => simp [Arena.putAll]
  | cons c cs ih =>
    rw [show Arena.putAll a (c :: cs) x = Arena.putAll (Arena.put a c x) cs x from rfl, ih, put_getElem]
    by_cases h : d ∈ cs <;> by_cases h' : c = d <;> simp [h, h', eq_comm]
    intro h''; exact absurd h''.symm h'

/-- `release(id)` frees the channels `id` holds and changes no other slot (41_allocator.md R139, R159). -/
theorem release_getElem (a : Arena) (id : NoteId) (d : Channel) :
    (Arena.release a id)[d] = if d ∈ Arena.owned a id then Slot.free else a[d] :=
  putAll_getElem a _ _ d

/-- `grant` writes the channels granted and changes no other slot (41_allocator.md R140). -/
theorem grant_getElem (a : Arena) (id : NoteId) (cs : List Channel) (now : Stamp) (dual : Bool) (d : Channel) :
    (Arena.grant a id cs now dual)[d] =
      if d ∈ cs then { busy := true, owner := id, stamp := now, dual := dual } else a[d] :=
  putAll_getElem a _ _ d

/-- Clearing the arena frees every slot (41_allocator.md R166). -/
theorem clear_getElem (a : Arena) (d : Channel) : (Arena.clear a)[d] = Slot.free := by
  rw [Arena.clear, putAll_getElem, if_pos (mem_channels d)]

/-- Two arenas that agree at every channel are equal. -/
theorem arena_ext {a b : Arena} (h : ∀ c : Channel, a[c] = b[c]) : a = b :=
  Vector.ext fun i hi => h ⟨i, hi⟩

/-! ## Views -/

theorem mem_owned (a : Arena) (id : NoteId) (c : Channel) :
    c ∈ Arena.owned a id ↔ a[c].busy = true ∧ a[c].owner = id := by
  simp [Arena.owned]

theorem mem_freeSet (a : Arena) (c : Channel) : c ∈ Arena.freeSet a ↔ a[c].busy = false := by
  simp [Arena.freeSet]

theorem owned_sorted (a : Arena) (id : NoteId) : (Arena.owned a id).Pairwise (· < ·) :=
  channels_sorted.filter _

theorem freeSet_sorted (a : Arena) : (Arena.freeSet a).Pairwise (· < ·) := channels_sorted.filter _

/-- An identity has no allocation exactly when it holds no channel (10_state.md R24). -/
theorem alloc_eq_none (a : Arena) (id : NoteId) :
    Arena.alloc a id = none ↔ ∀ c : Channel, ¬(a[c].busy = true ∧ a[c].owner = id) := by
  have h : Arena.alloc a id = none ↔ Arena.owned a id = [] := by
    unfold Arena.alloc; cases Arena.owned a id <;> simp
  rw [h, List.eq_nil_iff_forall_not_mem]
  exact forall_congr' fun c => by rw [mem_owned]

/-- What an allocation says: its identity, the channels held, and the stamp and flag of the lowest of them
(10_state.md R24). -/
theorem alloc_eq_some (a : Arena) (id : NoteId) (x : Allocation) (h : Arena.alloc a id = some x) :
    x.noteId = id ∧ x.channels = Arena.owned a id ∧
      ∃ c cs, Arena.owned a id = c :: cs ∧ x.timestamp = a[c].stamp ∧ x.isDualVoice = a[c].dual := by
  unfold Arena.alloc at h
  split at h
  · cases h
  · cases h; simp_all

/-- The live allocations are exactly the allocations of some identity (10_state.md R24). -/
theorem mem_live (a : Arena) (x : Allocation) : x ∈ Arena.live a ↔ Arena.alloc a x.noteId = some x := by
  constructor
  · intro h
    obtain ⟨c, -, h⟩ := List.mem_filterMap.mp h
    split at h
    · obtain ⟨h, -⟩ := Option.filter_eq_some_iff.mp h
      rwa [(alloc_eq_some a _ x h).1]
    · cases h
  · intro h
    obtain ⟨-, h2, c, cs, h3, -, -⟩ := alloc_eq_some a _ x h
    have hc : a[c].busy = true ∧ a[c].owner = x.noteId := (mem_owned a _ c).mp (h3 ▸ List.mem_cons_self)
    refine List.mem_filterMap.mpr ⟨c, mem_channels c, ?_⟩
    rw [if_pos hc.1, hc.2]
    exact Option.filter_eq_some_iff.mpr ⟨h, by simp [h2, h3]⟩

/-- Something is live exactly when some channel is busy. -/
theorem live_eq_nil (a : Arena) : Arena.live a = [] ↔ ∀ c : Channel, a[c].busy = false := by
  constructor
  · intro h c
    by_contra hb
    cases hx : Arena.alloc a a[c].owner with
    | none => exact (alloc_eq_none a _).mp hx c ⟨by simpa using hb, rfl⟩
    | some x =>
      have hm := (mem_live a x).mpr ((alloc_eq_some a _ x hx).1 ▸ hx)
      simp [h] at hm
  · intro h
    refine List.eq_nil_iff_forall_not_mem.mpr fun x hx => ?_
    obtain ⟨-, -, c, cs, h3, -, -⟩ := alloc_eq_some a _ x ((mem_live a x).mp hx)
    have := ((mem_owned a _ c).mp (h3 ▸ List.mem_cons_self)).1
    rw [h c] at this
    cases this

/-! ## Eviction order -/

theorem keyLt_iff (x y : Allocation) :
    x.keyLt y = true ↔ x.timestamp < y.timestamp ∨ (x.timestamp = y.timestamp ∧ x.lowest < y.lowest) := by
  simp [Allocation.keyLt]

theorem leastKey_eq_none (xs : List Allocation) : leastKey xs = none ↔ xs = [] := by
  cases xs with
  | nil => simp [leastKey]
  | cons x xs => simp only [leastKey]; split <;> simp; split <;> simp

/-- `leastKey` answers an element of the list, and no element has a smaller key. -/
theorem leastKey_eq_some (xs : List Allocation) (v : Allocation) (h : leastKey xs = some v) :
    v ∈ xs ∧ ∀ x ∈ xs, x.keyLt v = false := by
  induction xs generalizing v with
  | nil => cases h
  | cons x xs ih =>
    have irrefl : ∀ z : Allocation, z.keyLt z = false := fun z => by simp [Allocation.keyLt]
    simp only [leastKey] at h
    split at h
    case h_1 hn =>
      cases h
      rw [(leastKey_eq_none xs).mp hn]
      simp [irrefl]
    case h_2 y hy =>
      obtain ⟨hm, hle⟩ := ih y hy
      split at h <;> rename_i hlt <;> cases h
      · refine ⟨List.mem_cons_of_mem _ hm, fun z hz => ?_⟩
        rcases List.mem_cons.mp hz with rfl | hz
        · by_contra hc
          rw [Bool.not_eq_false, keyLt_iff] at hc
          rw [keyLt_iff] at hlt
          rcases hc with hc | ⟨hc, hc'⟩ <;> rcases hlt with hl | ⟨hl, hl'⟩ <;>
            simp only [BitVec.lt_def, Fin.lt_def, BitVec.toNat_eq] at * <;> omega
        · exact hle z hz
      · refine ⟨List.mem_cons_self, fun z hz => ?_⟩
        rcases List.mem_cons.mp hz with rfl | hz
        · exact irrefl _
        · by_contra hc
          have hle' := hle z hz
          rw [Bool.not_eq_false, keyLt_iff] at hc
          rw [keyLt_iff] at hlt
          rw [← Bool.not_eq_true, keyLt_iff] at hle'
          rcases hc with hc | ⟨hc, hc'⟩ <;>
            simp only [BitVec.lt_def, Fin.lt_def, BitVec.toNat_eq, not_or, not_and, not_lt] at * <;> omega

/-- `oldest(P)`: none exactly when no live allocation satisfies `P` (41_allocator.md R142). -/
theorem oldest_eq_none (a : Arena) (P : Allocation → Bool) :
    Arena.oldest a P = none ↔ ∀ x ∈ Arena.live a, P x = false := by
  rw [Arena.oldest, leastKey_eq_none, List.filter_eq_nil_iff]
  simp

/-- `oldest(P)` is a live allocation that satisfies `P`, and no other such has a smaller key (41_allocator.md R142). -/
theorem oldest_eq_some (a : Arena) (P : Allocation → Bool) (v : Allocation) (h : Arena.oldest a P = some v) :
    v ∈ Arena.live a ∧ P v = true ∧ ∀ x ∈ Arena.live a, P x = true → x.keyLt v = false := by
  obtain ⟨hm, hle⟩ := leastKey_eq_some _ v h
  obtain ⟨hl, hp⟩ := List.mem_filter.mp hm
  exact ⟨hl, hp, fun x hx hpx => hle x (List.mem_filter.mpr ⟨hx, hpx⟩)⟩

/-! ## Releasing a live allocation frees a channel -/

/-- A released channel is free. -/
theorem release_free (a : Arena) (id : NoteId) (c : Channel) (h : c ∈ Arena.owned a id) :
    c ∈ Arena.freeSet (Arena.release a id) := by
  rw [mem_freeSet, release_getElem, if_pos h]

/-- A free channel stays free. -/
theorem release_keeps_free (a : Arena) (id : NoteId) (c : Channel) (h : c ∈ Arena.freeSet a) :
    c ∈ Arena.freeSet (Arena.release a id) := by
  rw [mem_freeSet] at *
  rw [release_getElem]
  split <;> simp_all

/-- An eviction leaves at least one channel free (41_allocator.md R143, R147). -/
theorem evict_frees (a : Arena) (x : Allocation) (h : x ∈ Arena.live a) :
    Arena.freeSet (Arena.release a x.noteId) ≠ [] := by
  obtain ⟨-, -, c, cs, h3, -, -⟩ := alloc_eq_some a _ x ((mem_live a x).mp h)
  exact List.ne_nil_of_mem (release_free a _ c (h3 ▸ List.mem_cons_self))

end Sys2Proof.Machine
end

