-- ==== Sys2Proof/Laws/Ops.lean ====
section
/-! SUPPORT. What the shared operations over commands, allocations, key writes, host buffers and the queue can do, each
said once. -/

namespace Sys2Proof.Machine

/-! ## Admission and commit -/

/-- A control step commits its plan or holds; it does nothing else (20_memory.md R63). -/
theorem runPlan_cases (s : State) (p : Plan) :
    (admits s p ∧ runPlan s p = s.commit p) ∨ (¬admits s p ∧ runPlan s p = s) := by
  unfold runPlan; split <;> simp_all

theorem runPlan_admitted (s : State) (p : Plan) (h : admits s p) : runPlan s p = s.commit p := if_pos h

theorem runPlan_held (s : State) (p : Plan) (h : ¬admits s p) : runPlan s p = s := if_neg h

/-- A command that emits no writes is always admitted (20_memory.md R63). -/
theorem runPlan_silent (s : State) (p : Plan) (h : p.pending = []) : runPlan s p = s.commit p :=
  runPlan_admitted s p (.inl h)

/-! ## Host buffers -/

/-- A read after a write: the value written at its index, and every other index as before. -/
theorem read_write (m : Memory) (i j : Nat) (x : F32) :
    Memory.read (Memory.write m i x) j = if j = i then some x else Memory.read m j := by
  induction m with
  | nil => simp [Memory.write, Memory.read]
  | cons p m ih =>
    obtain ⟨k, y⟩ := p
    simp only [Memory.write]
    split <;> [skip; split] <;> simp only [Memory.read, ih] <;> split_ifs <;> first | rfl | omega

/-- An index of a buffer after a write was there before, or is the one written. -/
theorem mem_write (m : Memory) (i : Nat) (x : F32) (q : Nat × F32) (h : q ∈ Memory.write m i x) :
    q.1 = i ∨ ∃ y, (q.1, y) ∈ m := by
  induction m with
  | nil => simp_all [Memory.write]
  | cons p m ih =>
    obtain ⟨k, y⟩ := p
    simp only [Memory.write] at h
    split at h <;> [skip; split at h]
    · rcases List.mem_cons.mp h with rfl | h
      · exact .inl rfl
      · exact .inr ⟨q.2, h⟩
    · rcases List.mem_cons.mp h with rfl | h
      · exact .inl rfl
      · exact .inr ⟨q.2, List.mem_cons_of_mem _ h⟩
    · rcases List.mem_cons.mp h with rfl | h
      · exact .inr ⟨y, List.mem_cons_self⟩
      · exact (ih h).imp_right fun ⟨z, hz⟩ => ⟨z, List.mem_cons_of_mem _ hz⟩

/-- A write keeps the canonical form. -/
theorem wf_write (m : Memory) (i : Nat) (x : F32) (h : Memory.wf m) : Memory.wf (Memory.write m i x) := by
  induction m with
  | nil => simp [Memory.write, Memory.wf]
  | cons p m ih =>
    obtain ⟨k, y⟩ := p
    obtain ⟨h1, h2⟩ := List.pairwise_cons.mp h
    simp only [Memory.write]
    split <;> [skip; split]
    · refine List.pairwise_cons.mpr ⟨fun q hq => ?_, h⟩
      rcases List.mem_cons.mp hq with rfl | hq
      · assumption
      · exact lt_trans (by assumption) (h1 q hq)
    · subst_vars; exact List.pairwise_cons.mpr ⟨h1, h2⟩
    · refine List.pairwise_cons.mpr ⟨fun q hq => ?_, ih h2⟩
      rcases mem_write m i x q hq with hq | ⟨z, hz⟩
      · simp only [hq]; omega
      · exact h1 (q.1, z) hz

/-- The host buffers of the reset state have the canonical form. -/
theorem reset_buffers_wf : Memory.wf State.reset.bufL ∧ Memory.wf State.reset.bufR := by decide

/-! ## RENDER -/

/-- The drain delivers its entries in order and changes nothing but the queue and the chip's side
(43_bridge.md R219). -/
theorem drain_eq (q : List RegWrite) (s : State) :
    drain q s =
      { s with chip := s.chip ++ q.map RegWrite.event, chipLog := s.chipLog ++ q, wq := s.wq.drop q.length } := by
  induction q generalizing s with
  | nil => simp [drain]
  | cons w q ih => simp [drain, ih, State.deliver, List.append_assoc]

/-- The samples of one chunk written into one buffer from an index up. -/
def writeFrom (m : Memory) : Nat → List Sample → Memory
  | _, [] => m
  | i, x :: xs => writeFrom (Memory.write m i (toF32 x)) (i + 1) xs

/-- The inner loop of RENDER changes the two buffers, and nothing else (43_bridge.md R218, R228). -/
theorem writeSamples_eq (i : Nat) (xs : List Sample) (s : State) :
    writeSamples i xs s = { s with bufL := writeFrom s.bufL i xs, bufR := writeFrom s.bufR i xs } := by
  induction xs generalizing i s with
  | nil => rfl
  | cons x xs ih => simp [writeSamples, writeFrom, ih, State.hostWriteBoth]

/-- What an index reads after a run of samples has been written: the sample at its place, or as before. -/
theorem read_writeFrom (m : Memory) (i : Nat) (xs : List Sample) (j : Nat) :
    Memory.read (writeFrom m i xs) j =
      if h : i ≤ j ∧ j < i + xs.length then some (toF32 (xs[j - i]'(by omega))) else Memory.read m j := by
  induction xs generalizing m i with
  | nil => rw [dif_neg (by simp)]; rfl
  | cons x xs ih =>
    rw [writeFrom, ih, read_write]
    by_cases h1 : i + 1 ≤ j ∧ j < i + 1 + xs.length
    · rw [dif_pos h1, dif_pos (by simp; omega)]
      congr 2
      simp [show j - i = (j - (i + 1)) + 1 by omega]
    · rw [dif_neg h1]
      by_cases h2 : j = i
      · subst h2; rw [if_pos rfl, dif_pos (by simp)]; simp
      · rw [if_neg h2, dif_neg (by simp; omega)]

theorem wf_writeFrom (m : Memory) (i : Nat) (xs : List Sample) (h : Memory.wf m) : Memory.wf (writeFrom m i xs) := by
  induction xs generalizing m i with
  | nil => exact h
  | cons x xs ih => exact ih _ _ (wf_write _ _ _ h)

/-- RENDER's loop changes the two buffers and the collaborator's history, and nothing else (43_bridge.md R228). -/
theorem renderLoop_frame (chip : Collaborator) (n off : Nat) (s : State) :
    ∃ h l r, renderLoop chip n off s = { s with chip := s.chip ++ h, bufL := l, bufR := r } := by
  induction n generalizing off s with
  | zero => exact ⟨[], s.bufL, s.bufR, by simp [renderLoop]⟩
  | succ n ih =>
    simp only [renderLoop]
    split
    · obtain ⟨h, l, r, e⟩ := ih _ (renderChunk chip off (min s.cfg.maxChipChunk (s.cfg.hostBufferLen - off)) s)
      rw [e, renderChunk, writeSamples_eq]
      exact ⟨.generate (min s.cfg.maxChipChunk (s.cfg.hostBufferLen - off)) :: h, l, r, by simp⟩
    · exact ⟨[], s.bufL, s.bufR, by simp⟩

/-! ## Key writes -/

/-- The two writes of `keyOn` (42_engine.md R180). -/
def keyOnWrites (cfg : Config) (note : Byte) (cv : Channel × Voice) : List RegWrite :=
  [⟨channelAddr cfg.regmap.fnumLoBase cv.1, fnumLoByte cfg.freqTable[effNote note cv.2]⟩,
   ⟨keyAddr cfg.regmap cv.1, keyOnByte cfg.regmap cfg.freqTable[effNote note cv.2]⟩]

/-- The diagnostic of a fallback entry, if it is one (42_engine.md R194). -/
def fallbackDiags (cfg : Config) (note : Byte) (cv : Channel × Voice) : List Diag :=
  if cfg.freqTable[effNote note cv.2].fallback then [.freqFallback cv.1 (effNote note cv.2)] else []

/-- Step 5 of NOTE_ON for one voice (42_engine.md R184). -/
theorem keyOnVoice_eq (cfg : Config) (note : Byte) (p : Plan) (cv : Channel × Voice) :
    Plan.keyOnVoice cfg note p cv =
      { p with
        pending := p.pending ++ keyOnWrites cfg note cv
        keyshadow := p.keyshadow.set cv.1 (keyOnByte cfg.regmap cfg.freqTable[effNote note cv.2])
        diags := p.diags ++ fallbackDiags cfg note cv } := by
  unfold Plan.keyOnVoice Plan.keyOn fallbackDiags keyOnWrites Plan.emitKey Plan.emit Plan.raise
  split <;> simp_all

/-- Step 5 of NOTE_ON: the key writes and fallback diagnostics of all voices, in order; the arena and the response are
not touched (42_engine.md R184, R186). -/
theorem keyOnVoices_frame (cfg : Config) (note : Byte) (vs : List (Channel × Voice)) (p : Plan) :
    let q := vs.foldl (Plan.keyOnVoice cfg note) p
    q.slots = p.slots ∧ q.resp = p.resp ∧ q.pending = p.pending ++ vs.flatMap (keyOnWrites cfg note) ∧
      q.diags = p.diags ++ vs.flatMap (fallbackDiags cfg note) := by
  induction vs generalizing p with
  | nil => simp
  | cons v vs ih =>
    simp only [List.foldl_cons, List.flatMap_cons]
    obtain ⟨h1, h2, h3, h4⟩ := ih (Plan.keyOnVoice cfg note p v)
    rw [keyOnVoice_eq] at h1 h2 h3 h4 ⊢
    exact ⟨h1, h2, by rw [h3, List.append_assoc], by rw [h4, List.append_assoc]⟩

/-- `keyOff` on distinct channels: one write each, of the shadow it had with the key-on bit clear; only those shadows
change (42_engine.md R181, R182). -/
theorem keyOffAll_eq (m : RegMap) (cs : List Channel) (hd : cs.Nodup) (p : Plan) :
    (p.keyOffAll m cs).slots = p.slots ∧ (p.keyOffAll m cs).diags = p.diags ∧
      (p.keyOffAll m cs).resp = p.resp ∧
      (p.keyOffAll m cs).pending =
        p.pending ++ cs.map (fun c => ⟨keyAddr m c, keyOffByte m p.keyshadow[c]⟩) ∧
      ∀ d : Channel, (p.keyOffAll m cs).keyshadow[d] =
        if d ∈ cs then keyOffByte m p.keyshadow[d] else p.keyshadow[d] := by
  induction cs generalizing p with
  | nil => simp [Plan.keyOffAll]
  | cons c cs ih =>
    obtain ⟨hc, hd⟩ := List.nodup_cons.mp hd
    have step : p.keyOffAll m (c :: cs) = (p.keyOff m c).keyOffAll m cs := rfl
    have sh : ∀ d : Channel, (p.keyOff m c).keyshadow[d] =
        if c = d then keyOffByte m p.keyshadow[c] else p.keyshadow[d] := fun d => by
      simp [Plan.keyOff, Vector.getElem_set, Fin.ext_iff]
    obtain ⟨h1, h2, h3, h4, h5⟩ := ih hd (p.keyOff m c)
    rw [step]
    refine ⟨h1, h2, h3, ?_, fun d => ?_⟩
    · rw [h4]
      simp only [Plan.keyOff, emitKey_pending, List.map_cons, List.append_assoc, List.singleton_append]
      congr 2
      refine List.map_congr_left fun d hd' => ?_
      have hne : c ≠ d := fun e => hc (e ▸ hd')
      have := sh d
      rw [if_neg hne] at this
      simp only [Plan.keyOff] at this
      rw [this]
    · rw [h5, sh]
      by_cases h : c = d
      · subst h; simp [hc]
      · by_cases h' : d ∈ cs <;> simp [h, h', Ne.symm h]

/-! ## Allocation -/

/-- What `takeLowest` can do: take the lowest free channel, or, with none free, evict the oldest allocation and take the
lowest channel that frees (41_allocator.md R146 steps 3 and 4, R147). -/
theorem takeLowest_cases (a : Arena) (id : NoteId) (now : Stamp) :
    (∃ c rest, Arena.freeSet a = c :: rest ∧
      takeLowest a id now = ⟨.ok, [c], [], Arena.grant a id [c] now false, []⟩) ∨
    (∃ v c rest, Arena.freeSet a = [] ∧ Arena.oldest a (fun _ => true) = some v ∧
      Arena.freeSet (Arena.release a v.noteId) = c :: rest ∧
      takeLowest a id now =
        ⟨.ok, [c], [v.noteId], Arena.grant (Arena.release a v.noteId) id [c] now false, []⟩) := by
  unfold takeLowest
  split
  case h_1 c rest h => exact .inl ⟨c, rest, h, rfl⟩
  case h_2 h =>
    right
    split
    case h_1 ho =>
      exfalso
      have hb : Arena.live a = [] :=
        List.eq_nil_iff_forall_not_mem.mpr fun x hx => by simpa using (oldest_eq_none a _).mp ho x hx
      have h0 := (mem_freeSet a 0).mpr ((live_eq_nil a).mp hb 0)
      simp [h] at h0
    case h_2 v ho =>
      split
      case h_1 c rest hf => exact ⟨v, c, rest, h, ho, hf, rfl⟩
      case h_2 hf => exact absurd hf (evict_frees a v (oldest_eq_some a _ v ho).1)

/-- Every release of a live allocation raises the number of free channels (41_allocator.md R156). -/
theorem evict_length (a : Arena) (x : Allocation) (h : x ∈ Arena.live a) :
    (Arena.freeSet a).length < (Arena.freeSet (Arena.release a x.noteId)).length := by
  obtain ⟨-, -, c, cs, h3, -, -⟩ := alloc_eq_some a _ x ((mem_live a x).mp h)
  have ho : c ∈ Arena.owned a x.noteId := h3 ▸ List.mem_cons_self
  have hn : c ∉ Arena.freeSet a := by
    rw [mem_freeSet, ((mem_owned a _ c).mp ho).1]; simp
  have hd : (c :: Arena.freeSet a).Nodup := List.nodup_cons.mpr ⟨hn, channels_nodup.filter _⟩
  have hs : c :: Arena.freeSet a ⊆ Arena.freeSet (Arena.release a x.noteId) := fun d hd' => by
    rcases List.mem_cons.mp hd' with rfl | hd'
    · exact release_free a _ _ ho
    · exact release_keeps_free a _ d hd'
  simpa using (List.subperm_of_subset hd hs).length_le

/-- What a stealing loop leaves: at least two free channels, or no allocation that satisfies `P`; at most two turns are
used (41_allocator.md R153, R156). -/
theorem steal_spec (P : Allocation → Bool) (n : Nat) (a : Arena) (ev : List NoteId)
    (hn : 2 ≤ n + (Arena.freeSet a).length) :
    (2 ≤ (Arena.freeSet (steal P n (a, ev)).1).length ∨ Arena.oldest (steal P n (a, ev)).1 P = none) ∧
      ∃ vs, (steal P n (a, ev)).2 = ev ++ vs ∧ (Arena.freeSet a).length + vs.length ≤
        max 2 (Arena.freeSet a).length ∧
        (Arena.freeSet a).length + vs.length ≤ (Arena.freeSet (steal P n (a, ev)).1).length := by
  induction n generalizing a ev with
  | zero => exact ⟨.inl (by simpa [steal] using hn), [], by simp [steal]⟩
  | succ n ih =>
    simp only [steal]
    split
    case isTrue h => exact ⟨.inl h, [], by simp⟩
    case isFalse h =>
      split
      case h_1 ho => exact ⟨.inr ho, [], by simp⟩
      case h_2 v ho =>
        have hl := evict_length a v (oldest_eq_some a P v ho).1
        obtain ⟨h1, vs, h2, h3, h4⟩ := ih (Arena.release a v.noteId) (ev ++ [v.noteId]) (by omega)
        exact ⟨h1, v.noteId :: vs, by simp [h2], by simp only [List.length_cons]; omega,
          by simp only [List.length_cons]; omega⟩

/-- A stealing loop leaves every slot as it was or freed. -/
theorem steal_getElem (P : Allocation → Bool) (n : Nat) (a : Arena) (ev : List NoteId) (c : Channel) :
    (steal P n (a, ev)).1[c] = a[c] ∨ (steal P n (a, ev)).1[c] = Slot.free := by
  induction n generalizing a ev with
  | zero => exact .inl rfl
  | succ n ih =>
    by_cases h : 2 ≤ (Arena.freeSet a).length
    · rw [show steal P (n + 1) (a, ev) = (a, ev) by simp only [steal, if_pos h]]
      exact .inl rfl
    · cases ho : Arena.oldest a P with
      | none =>
        rw [show steal P (n + 1) (a, ev) = (a, ev) by simp only [steal, if_neg h, ho]]
        exact .inl rfl
      | some v =>
        rw [show steal P (n + 1) (a, ev) = steal P n (Arena.release a v.noteId, ev ++ [v.noteId]) by
          simp only [steal, if_neg h, ho]]
        rcases ih (Arena.release a v.noteId) (ev ++ [v.noteId]) with h | h
        · rw [h, release_getElem]; split <;> simp
        · exact .inr h

end Sys2Proof.Machine
end

