-- ==== Sys2Proof/Laws/PerInstr.lean ====
section
/-! SUPPORT. Statements made for every instruction, one lemma for each constructor. -/

namespace Sys2Proof.Laws

/-- What a well-formed instruction encodes to is a packet of the length its opcode demands, unless the instruction is
RENDER, which is no packet, or ILLEGAL_COMMAND, whose packet has any other length (30_encoding.md R77, R80, R81). -/
def EncodedLength.Statement (i : Instr) : Prop :=
  i.wellFormed = true →
    match encode i with
    | .renderCall => i = .render
    | .packet p =>
      (∃ op rest, p = op :: rest ∧ opcodeLength op = some p.length) ∨
        ∃ op n, i = .illegal op n ∧ p.length = n ∧ (p = [] ∨ opcodeLength op ≠ some n)

/-- The bytes of a present or absent second voice. -/
theorem length_bytesVoice2 (v : Option Voice) : (bytesVoice2 v).length = 21 := by cases v <;> rfl

/-- A patch image has 43 bytes (30_encoding.md R82). -/
theorem length_bytesPatch (p : Patch) : (bytesPatch p).length = 43 := by
  simp [bytesPatch, bytesVoice, bytesOperator, length_bytesVoice2]

theorem EncodedLength.noteOn (track : TrackId) (note velocity : Byte) (now : Stamp) (patch : Patch) :
    EncodedLength.Statement (.noteOn track note velocity now patch) := fun _ =>
  .inl ⟨_, _, rfl, by simp [opcodeLength, bytes16, bytes32, length_bytesPatch]⟩

theorem EncodedLength.noteOff (track : TrackId) (note : Byte) : EncodedLength.Statement (.noteOff track note) :=
  fun _ => .inl ⟨_, _, rfl, rfl⟩

theorem EncodedLength.allNotesOff : EncodedLength.Statement .allNotesOff := fun _ => .inl ⟨_, _, rfl, rfl⟩

theorem EncodedLength.getChannelStats : EncodedLength.Statement .getChannelStats := fun _ => .inl ⟨_, _, rfl, rfl⟩

theorem EncodedLength.loadPatch (channel : Byte) (patch : Patch) :
    EncodedLength.Statement (.loadPatch channel patch) := fun _ =>
  .inl ⟨_, _, rfl, by simp [opcodeLength, length_bytesPatch]⟩

theorem EncodedLength.allocChannel (id : NoteId) (now : Stamp) : EncodedLength.Statement (.allocChannel id now) :=
  fun _ => .inl ⟨_, _, rfl, rfl⟩

theorem EncodedLength.allocDual (id : NoteId) (now : Stamp) : EncodedLength.Statement (.allocDual id now) :=
  fun _ => .inl ⟨_, _, rfl, rfl⟩

theorem EncodedLength.releaseNote (id : NoteId) : EncodedLength.Statement (.releaseNote id) :=
  fun _ => .inl ⟨_, _, rfl, rfl⟩

theorem EncodedLength.getStats : EncodedLength.Statement .getStats := fun _ => .inl ⟨_, _, rfl, rfl⟩

theorem EncodedLength.getAllocation (id : NoteId) : EncodedLength.Statement (.getAllocation id) :=
  fun _ => .inl ⟨_, _, rfl, rfl⟩

theorem EncodedLength.resetAllocator : EncodedLength.Statement .resetAllocator := fun _ => .inl ⟨_, _, rfl, rfl⟩

theorem EncodedLength.render : EncodedLength.Statement .render := fun _ => rfl

theorem EncodedLength.illegal (opcode : Byte) (length : Nat) : EncodedLength.Statement (.illegal opcode length) := by
  intro h
  refine .inr ⟨opcode, length, rfl, ?_, ?_⟩
  · cases length <;> simp [bytesIllegal]
  · cases length with
    | zero => exact .inl rfl
    | succ n => exact .inr (by simpa [Instr.wellFormed, illegalEmptyOk, illegalLengthOk] using h)

end Sys2Proof.Laws
end

