-- ==== Sys2Proof/Machine/Run.lean ====
section
/-! DEFINITION. Runs of the block, where one ends, and what is observed there (70_reset_and_hazards.md R279). -/

namespace Sys2Proof.Machine

/-- The given number of steps leads from the first state to the second. -/
def State.runsTo : Nat → State → State → Prop
  | 0, s, t => s = t
  | k + 1, s, t => ∃ u, step s = .next u ∧ State.runsTo k u t

/-- Whether a response is that of an `abort`, which commits nothing (10_state.md R40; 60_exceptions.md R246; log 22). -/
def Response.isAbort (r : Response) : Bool := r == [statusInvalidInput] || r == [statusIllegalCommand]

/-- No command has committed between the first state and the second, a later one of the same run: every response
appended since is an abort's (10_state.md R37, R40). -/
def State.noCommitSince (u t : State) : Prop := ∀ r ∈ t.resp.drop u.resp.length, Response.isAbort r = true

/-- A run from `s` has ended in `t`: no packet is left on the port, so that no command is held; `WQ` is empty; and some
step of the run started a RENDER after which no command has committed (70_reset_and_hazards.md R279). -/
def State.runEnded (s t : State) : Prop :=
  t.port = [] ∧ t.wq = [] ∧
    ∃ (before since : Nat) (u : State),
      State.runsTo before s u ∧ u.nextAgent = .audio ∧ State.runsTo (since + 1) u t ∧ State.noCommitSince u t

/-- What is observed at the end of a run (70_reset_and_hazards.md R279). -/
structure Observation where
  slots : Arena
  keyshadow : KeyShadow
  chipLog : List RegWrite
  diag : List Diag
  resp : List Response
  /-- `L` as the last RENDER left it. -/
  bufL : Memory
  /-- `R` as the last RENDER left it. -/
  bufR : Memory
deriving DecidableEq, Repr

/-- The observation of the state a run ended in. The collaborator's history, the parameters and the model's own fields
are no part of it (70_reset_and_hazards.md R279). -/
def State.observation (s : State) : Observation where
  slots := s.slots
  keyshadow := s.keyshadow
  chipLog := s.chipLog
  diag := s.diag
  resp := s.resp
  bufL := s.bufL
  bufR := s.bufR

end Sys2Proof.Machine
end

