-- ==== Sys2Proof/Laws/Run.lean ====
section
/-! SUPPORT. What a step does to the turns, and when a run has ended (70_reset_and_hazards.md R279). -/

namespace Sys2Proof.Machine

/-- Running a plan, admitted or held, uses up no turn. -/
@[simp] theorem runPlan_turns (s : State) (p : Plan) : (runPlan s p).turns = s.turns := by
  rcases runPlan_cases s p with ⟨_, h⟩ | ⟨_, h⟩ <;> simp [h]

/-- RENDER empties the queue, whatever the collaborator, and uses up no turn of its own. -/
theorem renderWith_frame (chip : Collaborator) (s : State) :
    (renderWith chip s).wq = [] ∧ (renderWith chip s).turns = s.turns ∧ (renderWith chip s).port = s.port ∧
      (renderWith chip s).resp = s.resp := by
  obtain ⟨h, l, r, e⟩ := renderLoop_frame chip s.cfg.hostBufferLen 0 (drain s.wq s)
  rw [renderWith, e]
  simp [drain_eq]

/-- No instruction uses up a turn. -/
theorem exec_turns {i : Instr} {s t : State} (h : exec i s = .next t) : t.turns = s.turns := by
  cases i <;> injection h with h <;> subst h
  case render => exact (renderWith_frame _ s).2.1
  all_goals exact runPlan_turns s _

/-- Every step uses up one turn. -/
theorem step_turns {s t : State} (h : step s = .next t) : t.turns = s.turns.tail := by
  unfold step at h
  split at h
  · injection h with h; subst h; rfl
  · simpa using exec_turns h

/-- Along a run the turns are used up in their order. -/
theorem runsTo_turns {k : Nat} {s t : State} (h : State.runsTo k s t) : t.turns = s.turns.drop k := by
  induction k generalizing s with
  | zero => simp [State.runsTo] at h; simp [h]
  | succ k ih =>
    obtain ⟨u, hs, hu⟩ := h
    rw [ih hu, step_turns hs, List.drop_tail]

/-- A run in which the host never calls RENDER has not ended, even if no packet is left and the queue is empty. -/
theorem not_runEnded_of_no_audio {s t : State} (h : .audio ∉ s.turns) : ¬State.runEnded s t := by
  rintro ⟨_, _, before, since, u, hu, ha, _⟩
  rw [State.nextAgent, runsTo_turns hu] at ha
  refine h (List.mem_of_mem_drop (i := before) ?_)
  cases hd : s.turns.drop before with
  | nil => simp [hd] at ha
  | cons a as => simp [hd] at ha; simp [ha]

/-- A RENDER with no packet left on the port ends the run. -/
theorem runEnded_of_render {s : State} {rest : List Agent} (hp : s.port = []) (ht : s.turns = .audio :: rest) :
    ∃ t, step s = .next t ∧ State.runEnded s t := by
  have hs : step s = .next (renderWith Config.chipGenerate s.takeTurn) := by
    simp [step, State.fetch, State.nextAgent, ht, exec, execRender]
  obtain ⟨hq, -, hport, hresp⟩ := renderWith_frame Config.chipGenerate s.takeTurn
  refine ⟨_, hs, hport.trans hp, hq, 0, 0, s, rfl, by simp [State.nextAgent, ht], ⟨_, hs, rfl⟩, ?_⟩
  intro r hr
  simp [hresp] at hr

end Sys2Proof.Machine
end

