-- ==== Sys2Proof/Tests/Slice0.lean ====
section
/-! SUPPORT. Tests on fixed values, and a witness for the hypotheses of every statement that has some. Every expected value
comes from 95_test_vectors.md, or is written out by hand from the rule named. -/

namespace Sys2Proof.Tests

set_option Elab.async false
set_option synthInstance.maxHeartbeats 200000
set_option synthInstance.maxSize 1000

open Sys2Proof Sys2Proof.Machine

/-! ## Fixtures -/

/-- Voice VA (95_test_vectors.md 1.3). -/
def voiceA : Voice where
  mod := ⟨15, 1, 5, 7, 1, 0, 0x10, 1, false, true, true, false⟩
  car := ⟨13, 2, 3, 4, 2, 1, 0, 0, true, false, true, true⟩
  feedback := 5
  connection := .fm
  baseNoteOffset := 0

/-- Voice VB (95_test_vectors.md 1.3). -/
def voiceB : Voice where
  mod := ⟨12, 4, 2, 6, 3, 2, 0x20, 2, false, false, false, false⟩
  car := ⟨10, 3, 1, 5, 1, 0, 5, 3, false, false, true, false⟩
  feedback := 2
  connection := .additive
  baseNoteOffset := 0x0C

/-- Voice VM, every field wider than its register field (95_test_vectors.md 1.3). -/
def voiceM : Voice where
  mod := ⟨0x14, 0x11, 0x0F, 0x10, 0x1F, 0x0F, 0xFF, 0xFF, true, true, true, true⟩
  car := ⟨0x14, 0x11, 0x0F, 0x10, 0x1F, 0x0F, 0xFF, 0xFF, true, true, true, true⟩
  feedback := 0x0F
  connection := .fm
  baseNoteOffset := 0x80

/-- Patch PA. -/
def patchA : Patch := ⟨false, voiceA, none⟩

/-- Patch PD. -/
def patchD : Patch := ⟨true, voiceA, some voiceB⟩

/-- Patch PM. -/
def patchM : Patch := ⟨false, voiceM, none⟩

/-- The bytes of the image of PA after its flags (95_test_vectors.md 1.4). -/
def imageA : List Byte :=
  [0x0F, 0x01, 0x05, 0x07, 0x01, 0x00, 0x10, 0x01, 0x06, 0x0D, 0x02, 0x03, 0x04, 0x02, 0x01, 0x00, 0x00, 0x0D, 0x05,
    0x00, 0x00]

/-- The bytes of the image of VB (95_test_vectors.md 1.4). -/
def imageB : List Byte :=
  [0x0C, 0x04, 0x02, 0x06, 0x03, 0x02, 0x20, 0x02, 0x00, 0x0A, 0x03, 0x01, 0x05, 0x01, 0x00, 0x05, 0x03, 0x04, 0x02,
    0x01, 0x0C]

/-- The packet of program P1's NOTE_ON (95_test_vectors.md P1). -/
def packetP1 : Packet :=
  [0x01, 0x01, 0x00, 0x45, 0x64, 0xE8, 0x03, 0x00, 0x00, 0x00] ++ imageA ++ List.replicate 21 0

/-- The packet LOAD_PATCH ch=12 patch=PB (95_test_vectors.md P3). -/
def packetP3 : Packet := [0x05, 0x0C, 0x00] ++ imageB ++ List.replicate 21 0

/-- A single-voice slot of note-k. -/
def one (k : Byte) (stamp : Stamp) : Slot := ⟨true, ⟨0, k⟩, stamp, false⟩

/-- A dual-voice slot of note-k. -/
def two (k : Byte) (stamp : Stamp) : Slot := ⟨true, ⟨0, k⟩, stamp, true⟩

/-- An arena from the slots of its first channels, the rest free. -/
def arena (l : List Slot) : Arena := Vector.ofFn fun c : Channel => l.getD c Slot.free

/-- The state after reset with an arena. -/
def withArena (l : List Slot) : State := { State.reset with slots := arena l }

/-- The same under SINGLE_ONLY. -/
def withArenaS (l : List Slot) : State :=
  { State.reset with slots := arena l, cfg := { configDefault with dualStealPolicy := .singleOnly } }

/-- Nine single notes, channel 8 the oldest (95_test_vectors.md V-A6, with track 0). -/
def nineSingles : List Slot :=
  [one 0x50 100, one 0x51 99, one 0x52 98, one 0x53 97, one 0x54 96, one 0x55 95, one 0x56 94, one 0x57 93, one 0x58 92]

/-- Four dual notes, channel 8 free (95_test_vectors.md L1-4). -/
def fourDuals : List Slot := [two 0 0, two 0 0, two 1 1, two 1 1, two 2 2, two 2 2, two 3 3, two 3 3]

/-- Four dual notes and a degraded one (95_test_vectors.md V-A9). -/
def allDual : List Slot := fourDuals ++ [two 8 8]

/-- The next state of an outcome, for tests of an instruction that has one. -/
def after : Host.Outcome State Fault Refusal → State
  | .next t => t
  | .fault _ => State.reset
  | .refused _ => State.reset

/-- Writes as (address, value) pairs. -/
def pairs (ws : List RegWrite) : List (Addr × Byte) := ws.map fun w => (w.addr, w.val)

/-! ## Well-formedness -/

theorem test_wellFormed_refuses_empty_packet_with_opcode : Instr.wellFormed (.illegal 0x02 0) = false := by decide

theorem test_wellFormed_refuses_decodable_packet : Instr.wellFormed (.illegal 0x02 4) = false := by decide

/-! ## Decoding: words written from 30_encoding.md R80 to R85 -/

theorem test_decode_noteOn : decode packetP1 = .noteOn 1 69 100 1000 patchA := by decide +kernel

theorem test_decode_noteOn_dual :
    decode ([0x01, 0x00, 0x00, 0x48, 0x64, 0x09, 0x00, 0x00, 0x00, 0x03] ++ imageA ++ imageB) =
      .noteOn 0 72 100 9 patchD := by decide +kernel

theorem test_decode_noteOff : decode [0x02, 0x01, 0x00, 0x45] = .noteOff 1 69 := by decide +kernel

theorem test_decode_allNotesOff : decode [0x03] = .allNotesOff := by decide +kernel

theorem test_decode_getChannelStats : decode [0x04] = .getChannelStats := by decide +kernel

theorem test_decode_loadPatch : decode packetP3 = .loadPatch 12 ⟨false, voiceB, none⟩ := by decide +kernel

theorem test_decode_allocChannel :
    decode [0x10, 0x34, 0x12, 0x56, 0x04, 0x03, 0x02, 0x01] = .allocChannel ⟨0x1234, 0x56⟩ 0x01020304 := by
  decide +kernel

theorem test_decode_allocDual :
    decode [0x11, 0x07, 0x00, 0x07, 0xC8, 0x00, 0x00, 0x00] = .allocDual ⟨7, 7⟩ 200 := by decide +kernel

theorem test_decode_releaseNote : decode [0x12, 0x09, 0x00, 0x09] = .releaseNote ⟨9, 9⟩ := by decide +kernel

theorem test_decode_getStats : decode [0x13] = .getStats := by decide +kernel

theorem test_decode_getAllocation : decode [0x14, 0x00, 0x00, 0x48] = .getAllocation ⟨0, 72⟩ := by decide +kernel

theorem test_decode_resetAllocator : decode [0x15] = .resetAllocator := by decide +kernel

theorem test_decode_illegal :
    [[], [0x00], [0x16, 0x01, 0x02], [0x02, 0x00, 0x00, 0x3C, 0x00], 0x05 :: List.replicate 43 0].map decode =
      [.illegal 0xFF 0, .illegal 0x00 1, .illegal 0x16 3, .illegal 0x02 5, .illegal 0x05 44] := by decide +kernel

theorem test_decodeInput_render : decodeInput .renderCall = .render := by decide

theorem test_decodeTableWord :
    decodeTableWord 8 0x13 = some .getStats ∧ decodeTableWord 32 0x48000014 = some (.getAllocation ⟨0, 72⟩) ∧
      decodeTableWord 8 0x02 = some (.noteOff 0 0) ∧ decodeTableWord 0 0 = some .render ∧
      decodeTableWord 8 0x16 = some (.illegal 0x16 1) := by decide +kernel

theorem test_withFetchWord :
    (after (step (State.reset.withFetchWord 8 0x13))).resp = [[0x00, 9, 0, 0]] := by decide +kernel

/-! ## Encoder and tables -/

/-- V-E5. -/
theorem test_encodeVoice_channel8 :
    pairs (encodeVoice regmapDefault 8 voiceB) =
      [(0x32, 0x03), (0x52, 0xA0), (0x72, 0xC4), (0x92, 0x26), (0xF2, 0x02), (0x35, 0x21), (0x55, 0xC5), (0x75, 0xA3),
        (0x95, 0x15), (0xF5, 0x00), (0xC8, 0x04)] := by decide +kernel

/-- The default table is the formula of 42_engine.md R191 at the default clock. -/
theorem test_freqTable_is_the_formula : freqTableDefault = Vector.ofFn fun e => freqWord 49716 e := by decide +kernel

/-! ## Allocator -/

/-- L1-3, tie variant. -/
theorem test_allocChannel_tie :
    let t := after (exec (.allocChannel ⟨0, 9⟩ 100)
      (withArena [one 0 10, one 1 11, one 2 12, one 3 5, one 4 14, one 5 15, one 6 16, one 7 5, one 8 18]))
    t.resp = [[0x00, 1, 3, 0xFF, 1, 0, 0, 3, 0, 0, 0]] ∧ t.slots[(3 : Channel)] = one 9 100 := by decide +kernel

/-- V-A11 step 2. -/
theorem test_allocChannel_replaces_degraded :
    (after (exec (.allocChannel ⟨0, 8⟩ 0x99) (withArenaS allDual))).slots = arena (fourDuals ++ [one 8 153]) := by
  decide +kernel

/-- V-A6. -/
theorem test_allocDual_two_evictions :
    (after (exec (.allocDual ⟨7, 7⟩ 200) (withArena nineSingles))).resp =
      [[0x00, 2, 7, 8, 2, 0x00, 0x00, 0x58, 0x00, 0x00, 0x57]] := by decide +kernel

/-- V-A8. -/
theorem test_allocDual_degrades_after_stealing :
    let t := after (exec (.allocDual ⟨0, 9⟩ 60) (withArenaS (fourDuals ++ [one 8 50])))
    t.resp = [[0x01, 1, 8, 0xFF, 1, 0, 0, 8, 0, 0, 0]] ∧ t.diag = [.degraded ⟨0, 9⟩ 8] := by decide +kernel

/-- L1-8 step 7. -/
theorem test_releaseNote :
    let t := after (exec (.releaseNote ⟨0, 0⟩) (withArena fourDuals))
    t.resp = [[0x00, 2, 0, 1]] ∧ Arena.free t.slots = 3 := by decide +kernel

/-- L1-4 step 6. -/
theorem test_getStats :
    (after (exec .getStats (withArenaS allDual))).resp = [[0x00, 0, 9, 5]] := by decide +kernel

/-- V-A11 step 1. -/
theorem test_getAllocation :
    (after (exec (.getAllocation ⟨0, 8⟩) (withArenaS (fourDuals ++ [two 8 0x01020304])))).resp =
      [[0x00, 1, 1, 8, 0xFF, 1, 4, 3, 2, 1]] := by decide +kernel

/-- V-R2. -/
theorem test_resetAllocator_keeps_the_shadow :
    let t := after (exec .resetAllocator { withArena [one 69 5] with keyshadow := #v[0x32, 0, 0, 0, 0, 0, 0, 0, 0] })
    t.slots = arena [] ∧ t.keyshadow[(0 : Channel)] = 0x32 ∧ t.wq = [] := by decide +kernel

/-! ## Engine -/

/-- V-N2 step 1. -/
theorem test_noteOn_dual :
    let t := after (exec (.noteOn 2 60 64 10 patchD) State.reset)
    pairs t.wq =
      [(0x20, 0x61), (0x40, 0x50), (0x60, 0xF1), (0x80, 0x57), (0xE0, 0x00), (0x23, 0xB2), (0x43, 0x00), (0x63, 0xD2),
        (0x83, 0x34), (0xE3, 0x01), (0xC0, 0x0B), (0x21, 0x03), (0x41, 0xA0), (0x61, 0xC4), (0x81, 0x26), (0xE1, 0x02),
        (0x24, 0x21), (0x44, 0xC5), (0x64, 0xA3), (0x84, 0x15), (0xE4, 0x00), (0xC1, 0x04), (0xA0, 0xB2), (0xB0, 0x2E),
        (0xA1, 0xB2), (0xB1, 0x32)] := by decide +kernel

/-- V-N7. -/
theorem test_noteOn_fallback :
    let t := after (exec (.noteOn 0 120 64 10 ⟨false, voiceB, none⟩) State.reset)
    t.diag = [.freqFallback 0 127] ∧ pairs (t.wq.drop 11) = [(0xA0, 0x00), (0xB0, 0x20)] ∧
      t.resp = [[0x00, 1, 0, 0xFF, 0, 0, 0, 0, 0, 0, 0]] := by decide +kernel

/-- V-N2 step 2. -/
theorem test_noteOff_dual :
    let t := after (exec (.noteOff 0 0)
      { withArena fourDuals with keyshadow := #v[0x2E, 0x32, 0, 0, 0, 0, 0, 0, 0] })
    pairs t.wq = [(0xB0, 0x0E), (0xB1, 0x12)] ∧ t.resp = [[0x00, 2, 0, 1]] := by decide +kernel

/-- V-N10 step 1. -/
theorem test_allNotesOff :
    let t := after (exec .allNotesOff { withArena [one 69 5] with keyshadow := #v[0x32, 0, 0, 0, 0, 0, 0, 0, 0] })
    pairs t.wq =
      [(0xB0, 0x12), (0xB1, 0), (0xB2, 0), (0xB3, 0), (0xB4, 0), (0xB5, 0), (0xB6, 0), (0xB7, 0), (0xB8, 0)] ∧
      t.resp = [[0x00, 1]] := by decide +kernel

/-- The example of 42_engine.md R205. -/
theorem test_getChannelStats :
    (after (exec .getChannelStats (withArena [one 69 5]))).resp = [[0x00, 8, 1, 0]] := by decide +kernel

/-- V-N11 step 1, which is V-E6. -/
theorem test_loadPatch_masks :
    pairs (after (exec (.loadPatch 4 patchM) State.reset)).wq =
      [(0x29, 0xFF), (0x49, 0xFF), (0x69, 0x41), (0x89, 0xF0), (0xE9, 0x07), (0x2C, 0xFF), (0x4C, 0xFF), (0x6C, 0x41),
        (0x8C, 0xF0), (0xEC, 0x07), (0xC4, 0x0F)] := by decide +kernel

/-- V-Q1 step 2: held. -/
theorem test_noteOn_is_held :
    let s := { State.reset with wq := List.replicate 26 ⟨0, 0⟩, cfg := { configDefault with wqDepth := 26 },
                                port := [packetP1] }
    after (exec (decode packetP1) s) = s := by decide +kernel

/-- 95_test_vectors.md 3.6: the length is checked before the note. -/
theorem test_illegal_comes_before_invalid :
    let t := after (exec (decode (0x01 :: 0 :: 0 :: 200 :: List.replicate 47 0)) State.reset)
    t.resp = [[0x04]] ∧ t.diag = [.illegalCommand 0x01 51] := by decide +kernel

/-! ## Bridge -/

/-- A collaborator whose sample at place `j` of its stream is `x j`. -/
def streamOf (x : Nat → Sample) : Collaborator := fun history n =>
  let done := (history.map fun | .write _ _ => 0 | .generate k => k).sum
  Vector.ofFn fun j : Fin n => x (done + j)

/-- V-B1, the example of 43_bridge.md R218. -/
theorem test_render_example :
    let t := renderWith (streamOf fun j => ([0x4000, 0x8000, 0x7FFF, 0] : List Sample).getD j 0)
      { State.reset with cfg := { configDefault with hostBufferLen := 4, maxChipChunk := 3 },
                         wq := [⟨0xA0, 0x44⟩, ⟨0xB0, 0x32⟩] }
    t.chip = [.write 0xA0 0x44, .write 0xB0 0x32, .generate 3, .generate 1] ∧ t.bufL = t.bufR ∧
      t.bufL = [(0, 0x3F000000), (1, 0xBF800000), (2, 0x3F7FFE00), (3, 0)] := by decide +kernel

/-- V-B3. -/
theorem test_render_no_buffer :
    let t := renderWith (streamOf fun _ => 1)
      { State.reset with cfg := { configDefault with hostBufferLen := 0 }, wq := [⟨0xB0, 0x00⟩] }
    t.chip = [.write 0xB0 0x00] ∧ t.bufL = [] ∧ pairs t.chipLog = [(0xB0, 0x00)] := by decide +kernel

/-- 70_reset_and_hazards.md R279: a RENDER with the command stream exhausted ends the run. -/
theorem test_runEnded_after_render :
    ∃ t, step { State.reset with turns := [.audio] } = .next t ∧
      State.runEnded { State.reset with turns := [.audio] } t := runEnded_of_render rfl rfl

/-- 70_reset_and_hazards.md R279: right after a last GET_STATS with no RENDER, the run has not ended. -/
theorem test_not_runEnded_after_getStats :
    ¬State.runEnded (State.reset.withFetchWord 8 0x13) (after (step (State.reset.withFetchWord 8 0x13))) :=
  not_runEnded_of_no_audio (by decide +kernel)

/-- V-B4. -/
theorem test_toF32 :
    ([0x8000, 0xC000, 0xFFFF, 0x0000, 0x0001, 0x4000, 0x7FFF] : List Sample).map toF32 =
      [0xBF800000, 0xBF000000, 0xB8000000, 0x00000000, 0x38000000, 0x3F000000, 0x3F7FFE00] := by decide +kernel

/-! ## Witnesses: for each statement with hypotheses, a state and operands that meet them all -/

/-- The steps of the three agents' turns. -/
theorem witness_StepRunsTheNextAgentsInstruction :
    ({ State.reset with turns := [.audio] } : State).turns = .audio :: [] ∧
      (({ State.reset with port := [[0x13]] } : State).turns.head? ≠ some .audio ∧
        ({ State.reset with port := [[0x13]] } : State).port = [0x13] :: []) ∧
      (({ State.reset with turns := [.control] } : State).turns.head? ≠ some .audio ∧
        ({ State.reset with turns := [.control] } : State).port = []) := by decide +kernel

theorem witness_DecodeInvertsEncode :
    Instr.wellFormed (.noteOn 0xFFFF 127 255 0xFFFFFFFF patchD) = true ∧ Instr.wellFormed (.illegal 0xFF 0) = true ∧
      Instr.wellFormed (.illegal 0x02 5) = true ∧ Instr.wellFormed (.illegal 0x16 1) = true := by decide

/-- One packet for each clause: a reserved opcode, the right length, a length one too small. -/
theorem witness_DecodeClassifiesEveryPacket :
    opcodeLength 0x16 = none ∧ (opcodeLength 0x02 = some 4 ∧ [0, 0, 60].length + 1 = 4) ∧
      (opcodeLength 0x02 = some 4 ∧ [0, 0].length + 1 ≠ 4) := by decide +kernel

/-- The first and the last of the seven bytes, in either packet, and a reserved opcode at each end of its range. -/
theorem witness_ReservedBitsNeverMatter :
    (packetP1.head? = some 0x01 ∧ (0xFC : Byte) &&& 0x03 = byteAt packetP1 (9 + 0) &&& 0x03) ∧
      (packetP3.head? = some 0x05 ∧ (0xFE : Byte) &&& 0x01 = byteAt packetP3 (2 + 41) &&& 0x01) ∧
      ((0x06 : Byte) ≤ 0x06 ∧ (0x06 : Byte) ≤ 0x0F) ∧ (0x16 : Byte) ≤ 0x16 := by decide +kernel

/-- An empty packet, a reserved opcode and a wrong length. -/
theorem witness_IllegalPacketOnlyReports :
    opcodeLength (([0x16] : Packet).headD 0) = none ∧
      opcodeLength (([0x03, 0x00] : Packet).headD 0) ≠ some ([0x03, 0x00] : Packet).length := by decide +kernel

theorem witness_VoicesProgramDisjointRegisters :
    (⟨0xC8, 0x04⟩ : RegWrite) ∈ encodeVoice regmapDefault 8 voiceB ∧ (3 : Channel) ≠ 8 ∧
      (⟨0xC3, 0x0B⟩ : RegWrite) ∈ encodeVoice regmapDefault 3 voiceA := by decide +kernel

theorem witness_KeyWritesSetTheShadow :
    (Plan.start State.reset).keyshadow[(8 : Channel)].getLsbD 5 = false ∧ (0 : Channel) ≠ 8 ∧ (4 : Nat) ≠ 5 := by
  decide +kernel

/-- The sums -1, 0, 127 and 128. -/
theorem witness_EffectiveNoteIsClamped :
    let v := fun offset : Byte => { voiceA with baseNoteOffset := offset }
    ((0 : Byte).toNat : Int) + (v 0xFF).baseNoteOffset.toInt = -1 ∧
      ((0 : Byte).toNat : Int) + (v 0).baseNoteOffset.toInt = 0 ∧
      ((115 : Byte).toNat : Int) + (v 12).baseNoteOffset.toInt = 127 ∧
      ((116 : Byte).toNat : Int) + (v 12).baseNoteOffset.toInt = 128 := by decide

/-- The last valid entry and the first fallback entry. -/
theorem witness_FreqTableIsTheFormula :
    freqTableDefault[(114 : Note)].fallback = false ∧ 0 < freqTableDefault[(114 : Note)].block.toNat ∧
      freqTableDefault[(115 : Note)].fallback = true := by decide +kernel

/-- A dual allocation and a degraded one. -/
theorem witness_AllocationViewsMeetTheInvariants :
    Arena.wellShaped (arena allDual) ∧ Arena.alloc (arena allDual) ⟨0, 3⟩ = some ⟨⟨0, 3⟩, [6, 7], 3, true⟩ ∧
      Arena.alloc (arena allDual) ⟨0, 8⟩ = some ⟨⟨0, 8⟩, [8], 8, true⟩ := by decide +kernel

theorem witness_AllocChannelTakesTheLowestFree :
    let s := withArena fourDuals
    Arena.idle s.slots ⟨0, 9⟩ ∧ s.slots[(8 : Channel)].busy = false ∧
      ∀ j : Channel, j < 8 → s.slots[j].busy = true := by decide +kernel

theorem witness_AllocChannelIsIdempotent :
    Arena.alloc (withArena nineSingles).slots ⟨0, 0x58⟩ = some ⟨⟨0, 0x58⟩, [8], 92, false⟩ := by decide +kernel

/-- note-1 holds channels 2 and 3, and channel 2 is the lowest it can have. -/
theorem witness_AllocChannelReplacesADualAllocation :
    let s := withArena fourDuals
    Arena.holds s.slots ⟨0, 1⟩ 2 ∧ s.slots[(2 : Channel)].dual = true ∧
      (∀ j : Channel, j < 2 → ¬Arena.holds s.slots ⟨0, 1⟩ j) ∧
      (s.slots[(2 : Channel)].busy = false ∨ Arena.holds s.slots ⟨0, 1⟩ 2) ∧
      ∀ j : Channel, j < 2 → s.slots[j].busy = true ∧ ¬Arena.holds s.slots ⟨0, 1⟩ j := by decide +kernel

theorem witness_AllocChannelEvictsTheLeastRecent :
    let s := withArena nineSingles
    (∀ j : Channel, s.slots[j].busy = true ∧ s.slots[j].dual = false ∧ s.slots[j].owner ≠ ⟨7, 7⟩) ∧
      (∀ i j : Channel, s.slots[i].owner = s.slots[j].owner → i = j) ∧
      ∀ j : Channel, j ≠ 8 →
        s.slots[(8 : Channel)].stamp < s.slots[j].stamp ∨
          (s.slots[(8 : Channel)].stamp = s.slots[j].stamp ∧ 8 < j) := by decide +kernel

theorem witness_AllocChannelEvictsAnyVoiceType :
    let s := withArena allDual
    Arena.wellShaped s.slots ∧ (∀ j : Channel, s.slots[j].busy = true ∧ s.slots[j].owner ≠ ⟨0, 11⟩) ∧
      ∀ j : Channel, j ≠ 0 →
        s.slots[(0 : Channel)].stamp < s.slots[j].stamp ∨
          (s.slots[(0 : Channel)].stamp = s.slots[j].stamp ∧ 0 < j) := by decide +kernel

/-- V-A4, whose free channels are 1, 3 and 5, and L1-8, where they are consecutive. -/
theorem witness_AllocDualGrantsThePreferredPair :
    (let s := withArena [one 0 0, Slot.free, one 2 2, Slot.free, one 4 4, Slot.free, one 6 6, one 7 7, one 8 8]
     isPairOf (fun c => s.slots[c].busy = false ∨ Arena.holds s.slots ⟨0, 9⟩ c) 1 3) ∧
    (let s := withArena [two 0 0, two 0 0]
     isPairOf (fun c => s.slots[c].busy = false ∨ Arena.holds s.slots ⟨0, 9⟩ c) 2 3) := by decide +kernel

theorem witness_AllocDualEvictsTheTwoOldestSingles :
    let s := withArena nineSingles
    (∀ j : Channel, s.slots[j].busy = true ∧ s.slots[j].dual = false ∧ s.slots[j].owner ≠ ⟨7, 7⟩) ∧
      (∀ i j : Channel, s.slots[i].owner = s.slots[j].owner → i = j) ∧ (8 : Channel) ≠ 7 ∧
      (∀ j : Channel, j ≠ 8 →
        s.slots[(8 : Channel)].stamp < s.slots[j].stamp ∨
          (s.slots[(8 : Channel)].stamp = s.slots[j].stamp ∧ 8 < j)) ∧
      ∀ j : Channel, j ≠ 8 → j ≠ 7 →
        s.slots[(7 : Channel)].stamp < s.slots[j].stamp ∨
          (s.slots[(7 : Channel)].stamp = s.slots[j].stamp ∧ 7 < j) := by decide +kernel

/-- V-A7 under ANY_TYPE, nine single notes under SINGLE_ONLY, and V-A8, which degrades. -/
theorem witness_AnyTypeAlwaysGrantsTwoChannels :
    (withArena (fourDuals ++ [one 8 50])).cfg.dualStealPolicy = .anyType ∧
      (allocDual .singleOnly (arena nineSingles) ⟨7, 7⟩ 200).status = .ok ∧
      (allocDual .singleOnly (arena (fourDuals ++ [one 8 50])) ⟨0, 9⟩ 60).status = .degraded := by decide +kernel

/-- Arenas with 2, 1 and 0 channels to be had. -/
theorem witness_SingleOnlyOutcomeIsDecidedByCounts :
    Arena.wellShaped (arena nineSingles) ∧ Arena.wellShaped (arena fourDuals) ∧ Arena.wellShaped (arena allDual) := by
  decide +kernel

theorem witness_DualRequestDegradesToVoiceOne :
    let s := withArenaS fourDuals
    s.cfg.dualStealPolicy = .singleOnly ∧ s.slots[(8 : Channel)].busy = false ∧
      (∀ j : Channel, j ≠ 8 → s.slots[j].busy = true ∧ s.slots[j].dual = true ∧ s.slots[j].owner ≠ ⟨0, 127⟩) ∧
      (127 : Byte).toNat ≤ 127 ∧ s.wq.length + 13 ≤ s.cfg.wqDepth := by decide +kernel

theorem witness_DualRequestFailsWithoutChange :
    let s := withArenaS allDual
    s.cfg.dualStealPolicy = .singleOnly ∧
      (∀ j : Channel, s.slots[j].busy = true ∧ s.slots[j].dual = true ∧ s.slots[j].owner ≠ ⟨0, 127⟩) ∧
      (allocDual s.cfg.dualStealPolicy s.slots ⟨0, 127⟩ 9).status = .fail ∧ (127 : Byte).toNat ≤ 127 := by
  decide +kernel

/-- V-A7: the single note-8 and then, with no single-voice note left, the dual note-0 are evicted. Under SINGLE_ONLY stealing
stops after note-8 with one channel free. -/
theorem witness_StealingIsBoundedAndProtectsDualNotes :
    let a := arena (fourDuals ++ [one 8 50])
    (allocDual .anyType a ⟨0, 9⟩ 60).evicted = [⟨0, 8⟩] ++ ⟨0, 0⟩ :: [] ∧
      (⟨⟨0, 0⟩, [0, 1], 0, true⟩ : Allocation) ∈ Arena.live a ∧
      (⟨⟨0, 8⟩, [8], 50, false⟩ : Allocation) ∈ Arena.live a ∧
      (allocDual .singleOnly a ⟨0, 9⟩ 60).evicted = [] ++ ⟨0, 8⟩ :: [] := by decide +kernel

/-- An idle identity, and one whose lowest channel is 6. -/
theorem witness_GetAllocationOnlyReports :
    let s := withArena fourDuals
    Arena.idle s.slots ⟨0, 9⟩ ∧ Arena.holds s.slots ⟨0, 3⟩ 6 ∧
      ∀ j : Channel, j < 6 → ¬Arena.holds s.slots ⟨0, 3⟩ j := by decide +kernel

/-- The least values out of range, 128 and 9. -/
theorem witness_OutOfRangeOperandsAreRejected : 127 < (128 : Byte).toNat ∧ 8 < (9 : Byte).toNat := by decide

/-- A single patch, and a dual one whose second voice is absent. -/
theorem witness_NoteOnSoundsTheLowestFreeChannel :
    let s := withArena fourDuals
    (127 : Byte).toNat ≤ 127 ∧ ¬(patchA.dualVoiceEnabled = true ∧ patchA.voice2 ≠ none) ∧
      ¬((⟨true, voiceA, none⟩ : Patch).dualVoiceEnabled = true ∧ (⟨true, voiceA, none⟩ : Patch).voice2 ≠ none) ∧
      Arena.idle s.slots ⟨0, 127⟩ ∧ s.slots[(8 : Channel)].busy = false ∧
      (∀ j : Channel, j < 8 → s.slots[j].busy = true) ∧ s.wq.length + 13 ≤ s.cfg.wqDepth := by decide +kernel

theorem witness_NoteOnRetriggerKeepsChannelAndStamp :
    let s := withArena [one 60 10]
    (60 : Byte).toNat ≤ 127 ∧ ¬(patchA.dualVoiceEnabled = true ∧ patchA.voice2 ≠ none) ∧
      Arena.holds s.slots ⟨0, 60⟩ 0 ∧ s.slots[(0 : Channel)].dual = false ∧
      (∀ j : Channel, Arena.holds s.slots ⟨0, 60⟩ j → j = 0) ∧ s.wq.length + 13 ≤ s.cfg.wqDepth := by decide +kernel

/-- An idle identity, and a retrigger of a dual note (V-N5). -/
theorem witness_NoteOnSoundsBothVoices :
    let s := withArena [one 5 0]
    let r := withArena [Slot.free, two 60 1, two 60 1]
    (60 : Byte).toNat ≤ 127 ∧
      isPairOf (fun c => s.slots[c].busy = false ∨ Arena.holds s.slots ⟨0, 60⟩ c) 1 2 ∧
      s.wq.length + 26 ≤ s.cfg.wqDepth ∧
      isPairOf (fun c => r.slots[c].busy = false ∨ Arena.holds r.slots ⟨0, 60⟩ c) 0 1 := by decide +kernel

theorem witness_NoteOnAllocatesLikeTheAllocator :
    (127 : Byte).toNat ≤ 127 ∧ (withArena nineSingles).wq.length + 26 ≤ (withArena nineSingles).cfg.wqDepth := by
  decide +kernel

/-- Grants of one channel after an eviction, of two, and of none. -/
theorem witness_NoteOnProgramsWhatItIsGranted :
    Arena.wellShaped (arena nineSingles) ∧ Arena.wellShaped (arena allDual) ∧ (127 : Byte).toNat ≤ 127 ∧
      (withArenaS allDual).wq.length + 26 ≤ (withArenaS allDual).cfg.wqDepth ∧
      (noteOnGrant (withArena nineSingles) ⟨7, 127⟩ 200 patchA).channels = [8] ∧
      (noteOnGrant (withArena nineSingles) ⟨7, 127⟩ 200 patchD).channels = [7, 8] ∧
      (noteOnGrant (withArenaS allDual) ⟨7, 127⟩ 200 patchD).channels = [] := by decide +kernel

/-- A dual note, and a note that holds nothing while the queue is full. -/
theorem witness_NoteOffKeysOffItsChannels :
    let s := withArena [two 60 1, two 60 1]
    (60 : Byte).toNat ≤ 127 ∧
      ((List.finRange 9).filter fun j => decide (Arena.holds s.slots ⟨0, 60⟩ j)) = [0, 1] ∧
      s.wq.length + 2 ≤ s.cfg.wqDepth ∧
      ((List.finRange 9).filter fun j => decide (Arena.holds s.slots ⟨0, 127⟩ j)) = [] := by decide +kernel

theorem witness_StolenNoteOffIsANoOp :
    (0x58 : Byte).toNat ≤ 127 ∧ (⟨7, 7⟩ : NoteId) ≠ ⟨0, 0x58⟩ ∧
      (∃ t, exec (.allocChannel ⟨7, 7⟩ 200) (withArena nineSingles) = .next t) ∧
      (⟨0, 0x58⟩ : NoteId) ∈ (allocSingle (withArena nineSingles).slots ⟨7, 7⟩ 200).evicted :=
  ⟨by decide, by decide, ⟨_, rfl⟩, by decide +kernel⟩

/-- The queue with room for exactly nine writes. -/
theorem witness_AllNotesOffKeysOffNineChannels :
    let s : State := { withArena fourDuals with wq := List.replicate 247 ⟨0, 0⟩ }
    s.wq.length + 9 ≤ s.cfg.wqDepth := by decide +kernel

theorem witness_LoadPatchProgramsVoiceOne :
    (8 : Byte).toNat = (8 : Channel).val ∧ State.reset.wq.length + 11 ≤ State.reset.cfg.wqDepth := by decide +kernel

theorem witness_NoteOnThenNoteOffRestoresTheArena :
    let s := withArena [two 5 1, two 5 1]
    (60 : Byte).toNat ≤ 127 ∧ s.cfg.regmap = regmapDefault ∧ Arena.freeZeroed s.slots ∧ Arena.idle s.slots ⟨2, 60⟩ ∧
      (noteOnGrant s ⟨2, 60⟩ 10 patchD).evicted = [] ∧ s.wq.length + 28 ≤ s.cfg.wqDepth ∧
      Arena.holds (after (exec (.noteOn 2 60 64 10 patchD) s)).slots ⟨2, 60⟩ 3 := by decide +kernel

/-- One write too many for a queue of 26. -/
theorem witness_HeldCommandChangesNothing :
    let s : State := { State.reset with wq := List.replicate 14 ⟨0, 0⟩, cfg := { configDefault with wqDepth := 26 } }
    writeCount (.noteOn 0 60 1 1 patchA) s ≠ 0 ∧ s.cfg.wqDepth < s.wq.length + writeCount (.noteOn 0 60 1 1 patchA) s := by
  decide +kernel

/-- No write at all, and exactly as many as fit. -/
theorem witness_AdmittedCommandCommits :
    let s : State := { State.reset with wq := List.replicate 13 ⟨0, 0⟩, cfg := { configDefault with wqDepth := 26 } }
    writeCount .getStats s = 0 ∧ s.wq.length + writeCount (.noteOn 0 60 1 1 patchA) s ≤ s.cfg.wqDepth := by
  decide +kernel

theorem witness_RenderLiftsEveryHold :
    let s : State := { State.reset with wq := List.replicate 26 ⟨0, 0⟩, cfg := { configDefault with wqDepth := 26 } }
    Config.wellFormed s.cfg = true ∧ Instr.allNotesOff ≠ .render ∧ ∃ t, exec .render s = .next t :=
  ⟨by decide +kernel, by decide, ⟨_, rfl⟩⟩

theorem witness_RenderDrainsAndThenGeneratesInChunks : 1 ≤ State.reset.cfg.maxChipChunk := by decide +kernel

/-- The parameters of V-B2: the stream has its five places, and index 5 lies beyond the buffer. -/
theorem witness_RenderFillsBothBuffers :
    let s : State := { State.reset with cfg := { configDefault with hostBufferLen := 5, maxChipChunk := 2 } }
    1 ≤ s.cfg.maxChipChunk ∧ s.cfg.hostBufferLen ≤ 5 ∧ chunkSizes s.cfg.hostBufferLen s.cfg.maxChipChunk = [2, 2, 1] ∧
      (sampleStream (streamOf fun j => BitVec.ofNat 16 j) s.chip (chunkSizes 5 2))[4]? = some 4 := by decide +kernel

theorem witness_SampleConversionIsExact : (0x0000 : Sample) = 0 := rfl

theorem witness_AllocatorCommandsEmitNothing :
    (∃ t, exec (.allocDual ⟨7, 7⟩ 200) (withArena nineSingles) = .next t) ∧
      ∃ t, exec (.loadPatch 8 patchA) (withArena nineSingles) = .next t := ⟨⟨_, rfl⟩, ⟨_, rfl⟩⟩

/-- One command for each of the statuses 0x02, 0x03 and 0x04. -/
theorem witness_ErrorsArePrecise :
    (after (exec (.allocDual ⟨0, 9⟩ 9) (withArenaS allDual))).resp = [0x02 :: [0, 0xFF, 0xFF, 0, 0, 0, 0, 0, 0, 0]] ∧
      (after (exec (.noteOff 0 128) State.reset)).resp = [0x03 :: []] ∧
      (after (exec (.illegal 0x16 1) State.reset)).resp = [0x04 :: []] := by decide +kernel

theorem witness_CommandsIgnoreTheQueueAndTheLogs :
    let s := withArena nineSingles
    let u : State := { withArena nineSingles with wq := [⟨1, 1⟩], resp := [[0x00]] }
    Instr.allNotesOff ≠ .render ∧ s.cfg = u.cfg ∧ s.slots = u.slots ∧ s.wq.length + 26 ≤ s.cfg.wqDepth ∧
      u.wq.length + 26 ≤ u.cfg.wqDepth ∧ s.keyshadow = u.keyshadow := by decide +kernel

/-- A state that meets every invariant and is not the reset state; its next step is a NOTE_ON. -/
def running : State where
  cfg := configDefault
  slots := arena [two 60 10, two 60 10]
  keyshadow := #v[0x2E, 0x32, 0, 0, 0, 0, 0, 0, 0]
  wq := [⟨0xB1, 0x32⟩]
  chipLog := [⟨0xB0, 0x2E⟩]
  diag := []
  resp := []
  chip := [.write 0xB0 0x2E]
  bufL := [(0, 0x3F000000)]
  bufR := [(0, 0x3F000000)]
  port := [packetP1]
  turns := []

/-- The step of `running` answers a next state. -/
theorem running_steps : ∃ t, step running = .next t := ⟨_, rfl⟩

theorem witness_StepKeepsTheArenaWellShaped : Arena.wellShaped running.slots := by decide +kernel

theorem witness_StepKeepsFreeSlotsZero : Arena.freeZeroed running.slots := by decide +kernel

theorem witness_StepKeepsTheQueueBounded : running.wq.length ≤ running.cfg.wqDepth := by decide +kernel

theorem witness_StepKeepsTheShadowAMirror :
    running.cfg.regmap = regmapDefault ∧ State.shadowMirrors running := by decide +kernel

theorem witness_StepWritesOnlyTheRegisterMap :
    running.cfg.regmap = regmapDefault ∧ State.writesInMap running := by decide +kernel

theorem witness_StepKeepsTheBuffersCanonical : State.buffersOk running := by decide +kernel

theorem witness_StepOnlyAppendsToTheLogs : ∃ t, step running = .next t := running_steps

end Sys2Proof.Tests
end

section
/-! Reset: the state every invariant of a step starts from (10_state.md R44). -/

namespace Sys2Proof.Machine

/-! ## The fields of the reset state -/

@[simp] theorem resetWith_slots_getElem (cfg : Config) (c : Channel) : (State.resetWith cfg).slots[c] = Slot.free := by
  simp [State.resetWith]

@[simp] theorem resetWith_keyshadow_getElem (cfg : Config) (c : Channel) : (State.resetWith cfg).keyshadow[c] = 0 := by
  simp [State.resetWith]

/-- Nothing has been committed at reset, neither delivered nor queued. -/
@[simp] theorem resetWith_committed (cfg : Config) : (State.resetWith cfg).committed = [] := rfl

/-! ## Arenas with no busy slot -/

/-- Invariant I2 speaks of busy channels only (10_state.md R27). -/
theorem wellShaped_of_all_free {a : Arena} (h : ∀ c : Channel, a[c] = Slot.free) : Arena.wellShaped a := by
  intro c hbusy
  rw [h c] at hbusy
  cases hbusy

theorem freeZeroed_of_all_free {a : Arena} (h : ∀ c : Channel, a[c] = Slot.free) : Arena.freeZeroed a :=
  fun c _ => h c

/-! ## The invariants at reset -/

/-- With nothing committed, a mirror of the last key write is 0x00 (42_engine.md R210). -/
theorem resetWith_shadowMirrors (cfg : Config) : State.shadowMirrors (State.resetWith cfg) := by
  intro c
  rw [resetWith_keyshadow_getElem, resetWith_committed]
  rfl

theorem resetWith_writesInMap (cfg : Config) : State.writesInMap (State.resetWith cfg) := by
  intro w hw
  rw [resetWith_committed] at hw
  exact absurd hw List.not_mem_nil

theorem resetWith_buffersOk (cfg : Config) : State.buffersOk (State.resetWith cfg) :=
  ⟨.nil, .nil, fun _ hp => absurd hp List.not_mem_nil, fun _ hp => absurd hp List.not_mem_nil⟩

/-- Settles O2: no slot is busy, nothing is committed and no buffer index is listed, whatever the parameters. -/
theorem resetMeetsTheInvariants : Obligations.ResetMeetsTheInvariants := by
  refine ⟨fun cfg => ⟨?_, ?_, Nat.zero_le _, ?_, ?_, ?_⟩, rfl, rfl⟩
  · exact wellShaped_of_all_free (resetWith_slots_getElem cfg)
  · exact freeZeroed_of_all_free (resetWith_slots_getElem cfg)
  · exact resetWith_shadowMirrors cfg
  · exact resetWith_writesInMap cfg
  · exact resetWith_buffersOk cfg

end Sys2Proof.Machine
end

section
/-! How many writes each command emits, at most 26 (00_scope.md R7), and why an empty queue admits every command
(20_memory.md R63). -/

namespace Sys2Proof.Machine

/-! ## A command runs its plan -/

/-- Every instruction but RENDER has a plan (20_memory.md R63). -/
theorem exists_plan {i : Instr} (hi : i ≠ .render) (s : State) : ∃ p, Instr.plan i s = some p := by
  cases i
  case render => exact absurd rfl hi
  all_goals exact ⟨_, rfl⟩

/-- A command's meaning is its plan, committed or held (20_memory.md R63). -/
theorem exec_eq_runPlan {i : Instr} {s : State} {p : Plan} (h : Instr.plan i s = some p) :
    exec i s = .next (runPlan s p) := by
  cases i
  case render => cases h
  all_goals injection h with h; subst h; rfl

theorem writeCount_of_plan {i : Instr} {s : State} {p : Plan} (h : Instr.plan i s = some p) :
    writeCount i s = p.pending.length := by
  simp [writeCount, h]

/-! ## The writes of the encoder and of the key operations -/

/-- `encodeVoice` emits eleven writes (40_encoder.md R118). -/
@[simp] theorem length_encodeVoice (m : RegMap) (c : Channel) (v : Voice) : (encodeVoice m c v).length = 11 := rfl

/-- `keyOn` emits two writes (42_engine.md R180). -/
@[simp] theorem length_keyOnWrites (cfg : Config) (note : Byte) (cv : Channel × Voice) :
    (keyOnWrites cfg note cv).length = 2 := rfl

@[simp] theorem abort_pending (s : State) (d : Diag) (status : Byte) : (Plan.abort s d status).pending = [] := rfl

/-- Steps 4 and 5 of NOTE_ON: all voices are programmed, then all are keyed on (42_engine.md R184, R186). -/
theorem soundVoices_pending (p : Plan) (cfg : Config) (note : Byte) (vs : List (Channel × Voice)) :
    (p.soundVoices cfg note vs).pending =
      p.pending ++ (vs.flatMap fun cv => encodeVoice cfg.regmap cv.1 cv.2) ++ vs.flatMap (keyOnWrites cfg note) := by
  obtain ⟨-, -, hpending, -⟩ := keyOnVoices_frame cfg note vs (p.programVoices cfg.regmap vs)
  exact hpending

/-- Each voice sounded costs thirteen writes: eleven to program it and two to key it on. -/
theorem length_soundVoices_pending (p : Plan) (cfg : Config) (note : Byte) (vs : List (Channel × Voice)) :
    (p.soundVoices cfg note vs).pending.length = p.pending.length + 13 * vs.length := by
  simp only [soundVoices_pending, List.length_append, List.length_flatMap, length_encodeVoice, length_keyOnWrites,
    List.map_const', List.sum_replicate, smul_eq_mul]
  omega

/-- `keyOff` on distinct channels emits one write for each (42_engine.md R181). -/
theorem length_keyOffAll_pending (p : Plan) (m : RegMap) {cs : List Channel} (hd : cs.Nodup) :
    (p.keyOffAll m cs).pending.length = p.pending.length + cs.length := by
  obtain ⟨-, -, -, hpending, -⟩ := keyOffAll_eq m cs hd p
  simp [hpending]

/-! ## How many channels a command touches -/

/-- At most two voices sound, whatever channels were granted (42_engine.md R183). -/
theorem length_assignVoices_le (cs : List Channel) (p : Patch) : (assignVoices cs p).length ≤ 2 := by
  unfold assignVoices
  split <;> simp

theorem owned_nodup (a : Arena) (id : NoteId) : (Arena.owned a id).Nodup := channels_nodup.filter _

theorem length_owned_le (a : Arena) (id : NoteId) : (Arena.owned a id).length ≤ 9 := List.length_filter_le _ _

/-! ## The writes of each command that emits any -/

/-- NOTE_ON emits nothing when it rejects its note or is granted no channel, and otherwise sounds the voices assigned
to the channels granted (42_engine.md R184). -/
theorem planNoteOn_pending_cases (track : TrackId) (note velocity : Byte) (now : Stamp) (patch : Patch) (s : State) :
    let g := noteOnGrant s { track := track, note := note } now patch
    (planNoteOn track note velocity now patch s).pending = [] ∨
      (planNoteOn track note velocity now patch s).pending =
        (((Plan.start s).takeGrant g).soundVoices s.cfg note (assignVoices g.channels patch)).pending := by
  unfold planNoteOn
  split
  · exact .inl rfl
  · dsimp only
    split
    case h_1 => exact .inl rfl
    all_goals exact .inr rfl

/-- Two voices of thirteen writes are the most NOTE_ON emits. -/
theorem length_planNoteOn_pending_le (track : TrackId) (note velocity : Byte) (now : Stamp) (patch : Patch)
    (s : State) : (planNoteOn track note velocity now patch s).pending.length ≤ 26 := by
  rcases planNoteOn_pending_cases track note velocity now patch s with hsilent | hsound
  · simp [hsilent]
  · have hvoices :=
      length_assignVoices_le (noteOnGrant s { track := track, note := note } now patch).channels patch
    rw [hsound, length_soundVoices_pending, takeGrant_pending, start_pending, List.length_nil]
    omega

/-- NOTE_OFF emits one write for each channel held, over any arena at most nine (42_engine.md R198). -/
theorem length_planNoteOff_pending_le (track : TrackId) (note : Byte) (s : State) :
    (planNoteOff track note s).pending.length ≤ 9 := by
  unfold planNoteOff
  split
  · simp
  · simpa [length_keyOffAll_pending _ _ (owned_nodup _ _)] using length_owned_le _ _

/-- ALL_NOTES_OFF emits nine writes whatever is held (42_engine.md R202, R203). -/
theorem length_planAllNotesOff_pending (s : State) : (planAllNotesOff s).pending.length = 9 := by
  simp [planAllNotesOff, length_keyOffAll_pending _ _ channels_nodup]

/-- LOAD_PATCH emits the eleven writes of one voice, or none when it rejects its channel (42_engine.md R207). -/
theorem length_planLoadPatch_pending_le (ch : Byte) (patch : Patch) (s : State) :
    (planLoadPatch ch patch s).pending.length ≤ 11 := by
  unfold planLoadPatch
  split <;> simp

/-- No command emits more than 26 writes, over any arena (00_scope.md R7, 20_memory.md R63). -/
theorem writeCount_le (i : Instr) (s : State) : writeCount i s ≤ 26 := by
  cases i
  case noteOn track note velocity now patch => exact length_planNoteOn_pending_le track note velocity now patch s
  case noteOff track note => exact (length_planNoteOff_pending_le track note s).trans (by decide)
  case allNotesOff => exact (length_planAllNotesOff_pending s).trans_le (by decide)
  case loadPatch ch patch => exact (length_planLoadPatch_pending_le ch patch s).trans (by decide)
  all_goals exact Nat.zero_le 26

/-! ## RENDER lifts every hold -/

/-- RENDER writes no parameter (10_state.md R41). -/
theorem renderWith_cfg (chip : Collaborator) (s : State) : (renderWith chip s).cfg = s.cfg := by
  obtain ⟨h, l, r, e⟩ := renderLoop_frame chip s.cfg.hostBufferLen 0 (drain s.wq s)
  rw [renderWith, e, drain_eq]

/-- A command whose writes fit in the queue commits its plan. -/
theorem exec_of_room {i : Instr} {s : State} (hi : i ≠ .render) (hroom : s.wq.length + writeCount i s ≤ s.cfg.wqDepth) :
    ∃ p, Instr.plan i s = some p ∧ exec i s = .next (s.commit p) := by
  obtain ⟨p, hp⟩ := exists_plan hi s
  rw [writeCount_of_plan hp] at hroom
  exact ⟨p, hp, by rw [exec_eq_runPlan hp, runPlan_admitted s p (.inr hroom)]⟩

/-- Settles O47: RENDER leaves the queue empty, and the empty queue of depth at least 26 has room for the at most 26
writes of any command, which therefore commits. -/
theorem renderLiftsEveryHold : Obligations.RenderLiftsEveryHold := by
  intro i s t hcfg hi hrender
  obtain rfl : renderWith Config.chipGenerate s = t := by injection hrender
  obtain ⟨hwq, -, -, -⟩ := renderWith_frame Config.chipGenerate s
  have hcount := writeCount_le i (renderWith Config.chipGenerate s)
  obtain ⟨hdepth, -⟩ : 26 ≤ s.cfg.wqDepth ∧ 1 ≤ s.cfg.maxChipChunk := by simpa [Config.wellFormed] using hcfg
  have hroom : (renderWith Config.chipGenerate s).wq.length + writeCount i (renderWith Config.chipGenerate s) ≤
      (renderWith Config.chipGenerate s).cfg.wqDepth := by
    rw [hwq, renderWith_cfg, List.length_nil, Nat.zero_add]
    exact hcount.trans hdepth
  obtain ⟨p, -, hexec⟩ := exec_of_room hi hroom
  exact ⟨hcount, _, hexec, by simp, by simp⟩

end Sys2Proof.Machine
end

section
/-! What a step can do, said once: it changes nothing but the turns, renders, or commits the plan of the packet at the
head of the port (20_memory.md R62, R63). -/

namespace Sys2Proof.Machine

/-! ## A packet stands for a command -/

theorem readCommand_ne_render (op : Byte) (p : Packet) : readCommand op p ≠ .render := by
  unfold readCommand
  split <;> nofun

theorem decodeCommand_eq_ok {p : Packet} {i : Instr} (h : decodeCommand p = .ok i) : ∃ op, i = readCommand op p := by
  unfold decodeCommand at h
  split at h
  case h_1 => cases h
  case h_2 op rest =>
    split at h
    case h_1 => cases h
    case h_2 =>
      split at h
      · injection h with h
        exact ⟨op, h.symm⟩
      · cases h

/-- RENDER is no packet (30_encoding.md R80). -/
theorem decode_ne_render (p : Packet) : decode p ≠ .render := by
  unfold decode
  split
  case h_1 i hi =>
    obtain ⟨op, rfl⟩ := decodeCommand_eq_ok hi
    exact readCommand_ne_render op p
  case h_2 => nofun

/-! ## RENDER -/

/-- RENDER moves the queue to the chip log and changes otherwise only the chip's history and the two buffers
(43_bridge.md R219, R228). -/
theorem renderWith_eq (chip : Collaborator) (s : State) :
    ∃ h l r, renderWith chip s =
      { s with chip := h, chipLog := s.chipLog ++ s.wq, wq := [], bufL := l, bufR := r } := by
  obtain ⟨h, l, r, e⟩ := renderLoop_frame chip s.cfg.hostBufferLen 0 (drain s.wq s)
  rw [renderWith, e, drain_eq]
  exact ⟨_, l, r, by rw [List.drop_length]⟩

/-! ## The three kinds of step -/

theorem step_of_audio {s : State} (h : s.nextAgent = .audio) : step s = exec .render s.takeTurn := by
  simp [step, State.fetch, h]

theorem step_of_idle {s : State} (h : s.nextAgent = .control) (hport : s.port = []) : step s = .next s.takeTurn := by
  simp [step, State.fetch, h, hport]

theorem step_of_packet {s : State} {packet : Packet} {rest : List Packet} (h : s.nextAgent = .control)
    (hport : s.port = packet :: rest) : step s = exec (decode packet) s.takeTurn := by
  simp [step, State.fetch, h, hport]

/-- An idle or held step uses up its turn and no more; an audio step renders; any other step commits the admitted plan
of the packet at the head of the port (20_memory.md R62, R63, 70_reset_and_hazards.md R280). -/
theorem step_cases {s t : State} (h : step s = .next t) :
    t = s.takeTurn ∨ t = renderWith Config.chipGenerate s.takeTurn ∨
      ∃ packet rest p, s.port = packet :: rest ∧ Instr.plan (decode packet) s.takeTurn = some p ∧
        admits s.takeTurn p ∧ t = s.takeTurn.commit p := by
  cases hagent : s.nextAgent with
  | audio =>
    rw [step_of_audio hagent] at h
    injection h with h
    exact .inr (.inl h.symm)
  | control =>
    cases hport : s.port with
    | nil =>
      rw [step_of_idle hagent hport] at h
      injection h with h
      exact .inl h.symm
    | cons packet rest =>
      obtain ⟨p, hp⟩ := exists_plan (decode_ne_render packet) s.takeTurn
      rw [step_of_packet hagent hport, exec_eq_runPlan hp] at h
      injection h with h
      rcases runPlan_cases s.takeTurn p with ⟨hadmit, hcommit⟩ | ⟨-, hheld⟩
      · exact .inr (.inr ⟨packet, rest, p, rfl, hp, hadmit, h.symm.trans hcommit⟩)
      · exact .inl (h.symm.trans hheld)

/-! ## The queue and the logs -/

@[simp] theorem takeTurn_committed (s : State) : s.takeTurn.committed = s.committed := rfl

/-- RENDER delivers committed writes and commits none (20_memory.md R64). -/
@[simp] theorem renderWith_committed (chip : Collaborator) (s : State) :
    (renderWith chip s).committed = s.committed := by
  obtain ⟨h, l, r, e⟩ := renderWith_eq chip s
  rw [e]
  exact List.append_nil _

/-- A commit adds its plan's writes after those committed before (20_memory.md R64). -/
@[simp] theorem commit_committed (s : State) (p : Plan) : (s.commit p).committed = s.committed ++ p.pending := by
  simp [State.committed]

/-- An admitted plan leaves the queue within its depth, if it was (20_memory.md R63). -/
theorem length_wq_append_pending_le {s : State} {p : Plan} (hs : s.wq.length ≤ s.cfg.wqDepth) (hp : admits s p) :
    (s.wq ++ p.pending).length ≤ s.cfg.wqDepth := by
  rw [List.length_append]
  rcases hp with hsilent | hroom
  · simpa [hsilent] using hs
  · exact hroom

/-- Settles O56: admission is the bound, and RENDER leaves the queue empty. -/
theorem stepKeepsTheQueueBounded : Obligations.StepKeepsTheQueueBounded := by
  intro s t hs hstep
  rcases step_cases hstep with rfl | rfl | ⟨packet, rest, p, -, -, hadmit, rfl⟩
  · exact hs
  · obtain ⟨h, l, r, e⟩ := renderWith_eq Config.chipGenerate s.takeTurn
    rw [e]
    exact Nat.zero_le _
  · exact length_wq_append_pending_le (s := s.takeTurn) hs hadmit

/-- Settles O60: RENDER keeps the list of committed writes and appends to the chip log; a commit appends to the list of
committed writes, to `diag` and to `resp`. -/
theorem stepOnlyAppendsToTheLogs : Obligations.StepOnlyAppendsToTheLogs := by
  intro s t hstep
  rcases step_cases hstep with rfl | rfl | ⟨packet, rest, p, hport, -, -, rfl⟩
  · exact ⟨List.prefix_rfl, List.prefix_rfl, List.prefix_rfl, List.prefix_rfl, rfl, .inl ⟨rfl, rfl⟩⟩
  · refine ⟨by rw [renderWith_committed, takeTurn_committed], ?_⟩
    obtain ⟨h, l, r, e⟩ := renderWith_eq Config.chipGenerate s.takeTurn
    rw [e]
    exact ⟨List.prefix_append _ _, List.prefix_rfl, List.prefix_rfl, rfl, .inl ⟨rfl, rfl⟩⟩
  · exact ⟨by simp, List.prefix_rfl, List.prefix_append _ _, List.prefix_append _ _, rfl,
      .inr ⟨⟨packet, by simp [hport]⟩, by simp⟩⟩

end Sys2Proof.Machine
end

section
/-! What the commands can do to the slot arena: releases, grants to an identity that holds nothing, and the clearing of
RESET_ALLOCATOR. The invariants of the arena follow by induction over these (10_state.md R27, R45). -/

namespace Sys2Proof.Machine

/-! ## The changes an arena can go through -/

/-- `b` comes from `a` by releases, grants and clearings, where a grant is to an identity that holds nothing, of at most
two channels, and of two only with the dual flag (41_allocator.md R139, R140, R166). -/
inductive Arena.Evolves (a : Arena) : Arena → Prop
  | refl : Evolves a a
  | release {b : Arena} (id : NoteId) : Evolves a b → Evolves a (Arena.release b id)
  | grant {b : Arena} {id : NoteId} {cs : List Channel} {now : Stamp} {dual : Bool} : Evolves a b →
      Arena.idle b id → cs.length ≤ 2 → (cs.length = 2 → dual = true) → Evolves a (Arena.grant b id cs now dual)
  | clear {b : Arena} : Evolves a b → Evolves a (Arena.clear b)

/-! ## Identities that hold nothing -/

/-- Freeing slots gives no identity a channel. -/
theorem idle_of_kept_or_freed {a b : Arena} {id : NoteId} (h : ∀ c : Channel, b[c] = a[c] ∨ b[c] = Slot.free)
    (hid : Arena.idle a id) : Arena.idle b id := by
  rintro c ⟨hbusy, howner⟩
  rcases h c with hc | hc
  · exact hid c ⟨hc ▸ hbusy, hc ▸ howner⟩
  · rw [hc] at hbusy
    cases hbusy

theorem release_kept_or_freed (a : Arena) (id : NoteId) (c : Channel) :
    (Arena.release a id)[c] = a[c] ∨ (Arena.release a id)[c] = Slot.free := by
  rw [release_getElem]
  split
  · exact .inr rfl
  · exact .inl rfl

/-- An identity holds nothing after its release (41_allocator.md R139). -/
theorem idle_release_self (a : Arena) (id : NoteId) : Arena.idle (Arena.release a id) id := by
  rintro c ⟨hbusy, howner⟩
  rw [release_getElem] at hbusy howner
  split at hbusy
  · cases hbusy
  · next hc =>
    rw [if_neg hc] at howner
    exact hc ((mem_owned a id c).mpr ⟨hbusy, howner⟩)

theorem idle_release {a : Arena} {id : NoteId} (other : NoteId) (hid : Arena.idle a id) :
    Arena.idle (Arena.release a other) id :=
  idle_of_kept_or_freed (release_kept_or_freed a other) hid

/-! ## Allocation procedures -/

/-- `takeLowest` grants one channel, after one eviction at most (41_allocator.md R146). -/
theorem takeLowest_evolves {a b : Arena} {id : NoteId} (now : Stamp) (h : Arena.Evolves a b) (hid : Arena.idle b id) :
    Arena.Evolves a (takeLowest b id now).slots := by
  rcases takeLowest_cases b id now with ⟨c, rest, -, e⟩ | ⟨v, c, rest, -, -, -, e⟩ <;> rw [e]
  · exact h.grant hid (by simp) (by simp)
  · exact (h.release v.noteId).grant (idle_release v.noteId hid) (by simp) (by simp)

theorem allocSingle_evolves (a : Arena) (id : NoteId) (now : Stamp) :
    Arena.Evolves a (allocSingle a id now).slots := by
  unfold allocSingle
  split
  case h_1 hnone => exact takeLowest_evolves now .refl ((alloc_eq_none a id).mp hnone)
  case h_2 x _ =>
    split
    · exact takeLowest_evolves now (.release id .refl) (idle_release_self a id)
    · exact .refl

/-- A stealing loop only releases (41_allocator.md R153). -/
theorem steal_evolves {a b : Arena} (P : Allocation → Bool) (n : Nat) (evicted : List NoteId)
    (h : Arena.Evolves a b) : Arena.Evolves a (steal P n (b, evicted)).1 := by
  induction n generalizing b evicted with
  | zero => exact h
  | succ n ih =>
    rw [steal]
    split
    · exact h
    · split
      case h_1 => exact h
      case h_2 v _ => exact ih _ (h.release v.noteId)

theorem stealForDual_evolves {a b : Arena} (policy : StealPolicy) (h : Arena.Evolves a b) :
    Arena.Evolves a (stealForDual policy b).1 := by
  cases policy with
  | singleOnly => exact steal_evolves _ 9 _ h
  | anyType => exact steal_evolves _ 9 _ (steal_evolves _ 9 _ h)

theorem idle_steal {b : Arena} {id : NoteId} (P : Allocation → Bool) (n : Nat) (evicted : List NoteId)
    (hid : Arena.idle b id) : Arena.idle (steal P n (b, evicted)).1 id :=
  idle_of_kept_or_freed (steal_getElem P n b evicted) hid

theorem idle_stealForDual {b : Arena} {id : NoteId} (policy : StealPolicy) (hid : Arena.idle b id) :
    Arena.idle (stealForDual policy b).1 id := by
  cases policy with
  | singleOnly => exact idle_steal _ 9 _ hid
  | anyType => exact idle_steal _ 9 _ (idle_steal _ 9 _ hid)

theorem length_of_consecutivePair {f cs : List Channel} (h : consecutivePair f = some cs) : cs.length = 2 := by
  refine (?_ : ∀ pair ∈ _, List.length pair = 2) cs (List.mem_of_find?_eq_some h)
  decide

/-- `pickPair` answers no more than two channels (41_allocator.md R149). -/
theorem length_pickPair_le (f : List Channel) : (pickPair f).length ≤ 2 := by
  unfold pickPair
  cases h : consecutivePair f with
  | none => exact List.length_take_le 2 f
  | some cs => exact (length_of_consecutivePair h).le

theorem grantDual_evolves {a b : Arena} {id : NoteId} (evicted : List NoteId) (now : Stamp) (h : Arena.Evolves a b)
    (hid : Arena.idle b id) : Arena.Evolves a (grantDual b evicted id now).slots := by
  unfold grantDual
  split
  · exact h
  · exact h.grant hid (by simp) (by simp)
  · exact h.grant hid (length_pickPair_le _) fun _ => rfl

/-- `allocDual` releases what the identity holds before it grants (41_allocator.md R153 step 1). -/
theorem allocDual_evolves (policy : StealPolicy) (a : Arena) (id : NoteId) (now : Stamp) :
    Arena.Evolves a (allocDual policy a id now).slots :=
  grantDual_evolves _ now (stealForDual_evolves policy (.release id .refl))
    (idle_stealForDual policy (idle_release_self a id))

/-! ## Commands -/

theorem noteOnGrant_evolves (s : State) (id : NoteId) (now : Stamp) (patch : Patch) :
    Arena.Evolves s.slots (noteOnGrant s id now patch).slots := by
  unfold noteOnGrant
  split
  · exact allocDual_evolves _ _ id now
  · exact allocSingle_evolves _ id now

/-- Steps 4 and 5 of NOTE_ON touch no slot (42_engine.md R184). -/
@[simp] theorem soundVoices_slots (p : Plan) (cfg : Config) (note : Byte) (vs : List (Channel × Voice)) :
    (p.soundVoices cfg note vs).slots = p.slots := by
  obtain ⟨hslots, -, -, -⟩ := keyOnVoices_frame cfg note vs (p.programVoices cfg.regmap vs)
  exact hslots

@[simp] theorem abort_slots (s : State) (d : Diag) (status : Byte) : (Plan.abort s d status).slots = s.slots := rfl

/-- NOTE_ON leaves the arena as its grant does, or, rejecting its note, as it was (42_engine.md R184). -/
theorem planNoteOn_slots (track : TrackId) (note velocity : Byte) (now : Stamp) (patch : Patch) (s : State) :
    (planNoteOn track note velocity now patch s).slots =
      if noteOutOfRange note then s.slots else (noteOnGrant s { track := track, note := note } now patch).slots := by
  unfold planNoteOn
  split
  · rfl
  · dsimp only
    split <;> simp

/-- `keyOff` touches no slot (42_engine.md R181). -/
theorem keyOffAll_slots (p : Plan) (m : RegMap) {cs : List Channel} (hd : cs.Nodup) :
    (p.keyOffAll m cs).slots = p.slots := by
  obtain ⟨hslots, -⟩ := keyOffAll_eq m cs hd p
  exact hslots

/-- NOTE_OFF releases its identity, or, rejecting its note, leaves the arena as it was (42_engine.md R198). -/
theorem planNoteOff_slots (track : TrackId) (note : Byte) (s : State) :
    (planNoteOff track note s).slots =
      if noteOutOfRange note then s.slots else Arena.release s.slots { track := track, note := note } := by
  unfold planNoteOff
  split
  · rfl
  · simp [keyOffAll_slots _ _ (owned_nodup _ _)]

theorem planAllNotesOff_slots (s : State) :
    (planAllNotesOff s).slots = releaseAll s.slots (Arena.live s.slots) := by
  simp [planAllNotesOff, keyOffAll_slots _ _ channels_nodup]

/-- LOAD_PATCH touches no slot (42_engine.md R207). -/
theorem planLoadPatch_slots (ch : Byte) (patch : Patch) (s : State) : (planLoadPatch ch patch s).slots = s.slots := by
  unfold planLoadPatch
  split <;> simp

theorem releaseAll_evolves {a b : Arena} (xs : List Allocation) (h : Arena.Evolves a b) :
    Arena.Evolves a (releaseAll b xs) := by
  induction xs generalizing b with
  | nil => exact h
  | cons x xs ih => exact ih (h.release x.noteId)

/-- Every command changes the arena by releases, grants to idle identities and clearings alone. -/
theorem plan_evolves {i : Instr} {s : State} {p : Plan} (h : Instr.plan i s = some p) :
    Arena.Evolves s.slots p.slots := by
  cases i
  case render => cases h
  all_goals injection h with h; subst h
  case noteOn track note velocity now patch =>
    rw [planNoteOn_slots]
    split
    · exact .refl
    · exact noteOnGrant_evolves s _ now patch
  case noteOff track note =>
    rw [planNoteOff_slots]
    split
    · exact .refl
    · exact .release _ .refl
  case allNotesOff =>
    rw [planAllNotesOff_slots]
    exact releaseAll_evolves _ .refl
  case loadPatch ch patch =>
    rw [planLoadPatch_slots]
    exact .refl
  case allocChannel id now => exact allocSingle_evolves s.slots id now
  case allocDual id now => exact allocDual_evolves _ s.slots id now
  case releaseNote id => exact .release id .refl
  case resetAllocator => exact .clear .refl
  all_goals exact .refl

/-- Every step changes the arena by releases, grants to idle identities and clearings alone. -/
theorem step_evolves {s t : State} (h : step s = .next t) : Arena.Evolves s.slots t.slots := by
  rcases step_cases h with rfl | rfl | ⟨packet, rest, p, -, hplan, -, rfl⟩
  · exact .refl
  · obtain ⟨h, l, r, e⟩ := renderWith_eq Config.chipGenerate s.takeTurn
    rw [e]
    exact .refl
  · exact plan_evolves hplan

/-! ## Free slots stay zero -/

theorem Arena.Evolves.freeZeroed {a b : Arena} (h : Arena.Evolves a b) (ha : Arena.freeZeroed a) :
    Arena.freeZeroed b := by
  induction h with
  | refl => exact ha
  | @release b id _ ih =>
    intro c hfree
    rcases release_kept_or_freed b id c with hc | hc
    · rw [hc] at hfree ⊢
      exact ih c hfree
    · exact hc
  | @grant b id cs now dual _ _ _ _ ih =>
    intro c hfree
    rw [grant_getElem] at hfree ⊢
    split at hfree
    · cases hfree
    · next hc =>
      rw [if_neg hc]
      exact ih c hfree
  | @clear b _ _ => exact freeZeroed_of_all_free (clear_getElem b)

/-- Settles O55: a release and a clearing leave the free slot itself, and a grant makes busy slots. -/
theorem stepKeepsFreeSlotsZero : Obligations.StepKeepsFreeSlotsZero :=
  fun _ _ hs hstep => (step_evolves hstep).freeZeroed hs

/-! ## The arena stays well-shaped -/

/-- Invariant I2 read at one channel (10_state.md R27). -/
def Arena.wellShapedAt (a : Arena) (c : Channel) : Prop :=
  (Arena.owned a a[c].owner).length ≤ 2 ∧
    ((Arena.owned a a[c].owner).length = 2 → a[c].dual = true) ∧
    ∀ d : Channel, Arena.holds a a[c].owner d → a[d].stamp = a[c].stamp ∧ a[d].dual = a[c].dual

theorem wellShaped_iff (a : Arena) :
    Arena.wellShaped a ↔ ∀ c : Channel, a[c].busy = true → Arena.wellShapedAt a c := Iff.rfl

/-- An identity holds no more channels than any list that has all of them. -/
theorem length_owned_le_of_holds {a : Arena} {id : NoteId} {cs : List Channel}
    (h : ∀ d : Channel, Arena.holds a id d → d ∈ cs) : (Arena.owned a id).length ≤ cs.length :=
  (List.subperm_of_subset (owned_nodup a id) fun d hd => h d ((mem_owned a id d).mp hd)).length_le

/-- I2 carries over at a channel when its owner's channels have kept their slots; the owner may have lost some. -/
theorem wellShapedAt_of_kept {a b : Arena} {c : Channel} (ha : Arena.wellShaped a) (hbusy : b[c].busy = true)
    (hkept : ∀ d : Channel, Arena.holds b b[c].owner d → b[d] = a[d]) : Arena.wellShapedAt b c := by
  have hc : b[c] = a[c] := hkept c ⟨hbusy, rfl⟩
  obtain ⟨hle, hdual, hagree⟩ := ha c (hc ▸ hbusy)
  have hold : ∀ d : Channel, Arena.holds b b[c].owner d → Arena.holds a a[c].owner d := fun d hd => by
    rwa [Arena.holds, hkept d hd, hc] at hd
  have hlen : (Arena.owned b b[c].owner).length ≤ (Arena.owned a a[c].owner).length :=
    length_owned_le_of_holds fun d hd => (mem_owned a _ d).mpr (hold d hd)
  refine ⟨hlen.trans hle, fun h2 => ?_, fun d hd => ?_⟩
  · rw [hc]
    exact hdual (by omega)
  · rw [hkept d hd, hc]
    exact hagree d (hold d hd)

theorem wellShaped_release {a : Arena} (id : NoteId) (ha : Arena.wellShaped a) :
    Arena.wellShaped (Arena.release a id) := by
  refine (wellShaped_iff _).mpr fun c hbusy => wellShapedAt_of_kept ha hbusy fun d hd => ?_
  rcases release_kept_or_freed a id d with hkept | hfreed
  · exact hkept
  · have hfree := hd.1
    rw [hfreed] at hfree
    cases hfree

/-- After a grant to an idle identity, that identity holds the channels granted and no other. -/
theorem holds_grant {a : Arena} {id : NoteId} {cs : List Channel} {now : Stamp} {dual : Bool} (hid : Arena.idle a id)
    {d : Channel} (hd : Arena.holds (Arena.grant a id cs now dual) id d) : d ∈ cs := by
  by_contra hmem
  rw [Arena.holds, grant_getElem, if_neg hmem] at hd
  exact hid d hd

/-- A grant to an idle identity of at most two channels, of two only with the dual flag, keeps I2 (10_state.md R27). -/
theorem wellShaped_grant {a : Arena} {id : NoteId} {cs : List Channel} {now : Stamp} {dual : Bool}
    (ha : Arena.wellShaped a) (hid : Arena.idle a id) (hle : cs.length ≤ 2) (hdual : cs.length = 2 → dual = true) :
    Arena.wellShaped (Arena.grant a id cs now dual) := by
  refine (wellShaped_iff _).mpr fun c hbusy => ?_
  by_cases howner : (Arena.grant a id cs now dual)[c].owner = id
  · have hslot : ∀ d : Channel, Arena.holds (Arena.grant a id cs now dual) id d →
        (Arena.grant a id cs now dual)[d] = { busy := true, owner := id, stamp := now, dual := dual } := fun d hd => by
      rw [grant_getElem, if_pos (holds_grant hid hd)]
    have hlen := length_owned_le_of_holds (a := Arena.grant a id cs now dual) fun d hd => holds_grant hid hd
    have hc := hslot c ⟨hbusy, howner⟩
    rw [Arena.wellShapedAt, howner, hc]
    refine ⟨hlen.trans hle, fun h2 => hdual (by omega), fun d hd => ?_⟩
    rw [hslot d hd]
    exact ⟨rfl, rfl⟩
  · refine wellShapedAt_of_kept ha hbusy fun d hd => ?_
    rw [grant_getElem]
    split
    · next hmem =>
      have hgranted := hd.2
      rw [grant_getElem, if_pos hmem] at hgranted
      exact absurd hgranted.symm howner
    · rfl

theorem Arena.Evolves.wellShaped {a b : Arena} (h : Arena.Evolves a b) (ha : Arena.wellShaped a) :
    Arena.wellShaped b := by
  induction h with
  | refl => exact ha
  | release id _ ih => exact wellShaped_release id ih
  | grant _ hid hle hdual ih => exact wellShaped_grant ih hid hle hdual
  | @clear b _ _ => exact wellShaped_of_all_free (clear_getElem b)

/-- Settles O54: releases only take channels away, and a grant goes to an identity that holds nothing. -/
theorem stepKeepsTheArenaWellShaped : Obligations.StepKeepsTheArenaWellShaped :=
  fun _ _ hs hstep => (step_evolves hstep).wellShaped hs

end Sys2Proof.Machine
end

section
/-! The views of the arena: the live allocations partition the busy channels (10_state.md R24, R27). -/

namespace Sys2Proof.Machine

/-! ## Live allocations -/

/-- A live allocation's channels are those its identity holds (10_state.md R24). -/
theorem mem_channels_of_live {a : Arena} {x : Allocation} (hx : x ∈ Arena.live a) (c : Channel) :
    c ∈ x.channels ↔ a[c].busy = true ∧ a[c].owner = x.noteId := by
  obtain ⟨-, hchannels, -⟩ := alloc_eq_some a _ x ((mem_live a x).mp hx)
  rw [hchannels, mem_owned]

theorem channels_nodup_of_live {a : Arena} {x : Allocation} (hx : x ∈ Arena.live a) : x.channels.Nodup := by
  obtain ⟨-, hchannels, -⟩ := alloc_eq_some a _ x ((mem_live a x).mp hx)
  rw [hchannels]
  exact owned_nodup a _

/-- Every busy channel belongs to the live allocation of its owner. -/
theorem exists_live_of_busy {a : Arena} {c : Channel} (h : a[c].busy = true) :
    ∃ x ∈ Arena.live a, x.noteId = a[c].owner := by
  cases hx : Arena.alloc a a[c].owner with
  | none => exact absurd ⟨h, rfl⟩ ((alloc_eq_none a _).mp hx c)
  | some x =>
    obtain ⟨hid, -, -⟩ := alloc_eq_some a _ x hx
    exact ⟨x, (mem_live a x).mpr (hid ▸ hx), hid⟩

/-- An identity has one live allocation at most (10_state.md R27, I3). -/
theorem live_ext {a : Arena} {x y : Allocation} (hx : x ∈ Arena.live a) (hy : y ∈ Arena.live a)
    (h : x.noteId = y.noteId) : x = y := by
  rw [mem_live] at hx hy
  rw [h] at hx
  exact Option.some.inj (hx.symm.trans hy)

/-- The allocation that `live` lists at a channel: its owner's, if the channel is the lowest of it (10_state.md R24). -/
def Arena.liveAt (a : Arena) (c : Channel) : Option Allocation :=
  if a[c].busy then (Arena.alloc a a[c].owner).filter fun x => x.channels.head? == some c else none

theorem live_eq_filterMap (a : Arena) : Arena.live a = channels.filterMap (Arena.liveAt a) := rfl

theorem head_of_liveAt {a : Arena} {c : Channel} {x : Allocation} (h : Arena.liveAt a c = some x) :
    x.channels.head? = some c := by
  unfold Arena.liveAt at h
  split at h
  · simpa using (Option.filter_eq_some_iff.mp h).2
  · cases h

/-- No allocation is listed twice, since it is listed at its lowest channel only. -/
theorem live_nodup (a : Arena) : (Arena.live a).Nodup := by
  rw [live_eq_filterMap]
  refine List.Nodup.filterMap (fun c d x hc hd => ?_) channels_nodup
  exact Option.some.inj ((head_of_liveAt hc).symm.trans (head_of_liveAt hd))

theorem live_noteIds_nodup (a : Arena) : ((Arena.live a).map (·.noteId)).Nodup :=
  List.Nodup.map_on (fun _ hx _ hy h => live_ext hx hy h) (live_nodup a)

/-! ## The channels of the live allocations -/

/-- No channel belongs to two allocations (10_state.md R27, I1). -/
theorem live_channels_nodup (a : Arena) : ((Arena.live a).flatMap (·.channels)).Nodup := by
  refine List.nodup_flatMap.mpr ⟨fun x hx => channels_nodup_of_live hx, ?_⟩
  refine (live_nodup a).imp_of_mem fun {x y} hx hy hne => ?_
  intro c hcx hcy
  obtain ⟨-, hownerx⟩ := (mem_channels_of_live hx c).mp hcx
  obtain ⟨-, hownery⟩ := (mem_channels_of_live hy c).mp hcy
  exact hne (live_ext hx hy (hownerx.symm.trans hownery))

theorem mem_live_channels (a : Arena) (c : Channel) :
    c ∈ (Arena.live a).flatMap (·.channels) ↔ a[c].busy = true := by
  rw [List.mem_flatMap]
  constructor
  · rintro ⟨x, hx, hc⟩
    exact ((mem_channels_of_live hx c).mp hc).1
  · intro hbusy
    obtain ⟨x, hx, hid⟩ := exists_live_of_busy hbusy
    exact ⟨x, hx, (mem_channels_of_live hx c).mpr ⟨hbusy, hid.symm⟩⟩

/-- The sizes of the live allocations add up to the count of busy channels (10_state.md R27, I4). -/
theorem sum_live_lengths (a : Arena) :
    ((Arena.live a).map (·.channels.length)).sum = Arena.allocated a := by
  have hperm : ((Arena.live a).flatMap (·.channels)).Perm (channels.filter fun c => a[c].busy) :=
    (List.perm_ext_iff_of_nodup (live_channels_nodup a) (channels_nodup.filter _)).mpr fun c => by
      rw [mem_live_channels, List.mem_filter, and_iff_right (mem_channels c)]
  rw [← List.length_flatMap, hperm.length_eq, Arena.allocated]

theorem allocated_le (a : Arena) : Arena.allocated a ≤ 9 := List.length_filter_le _ _

/-! ## Allocations of a well-shaped arena -/

/-- The view of an allocation in a well-shaped arena meets I2 (10_state.md R27). -/
theorem alloc_of_wellShaped {a : Arena} (ha : Arena.wellShaped a) {id : NoteId} {x : Allocation}
    (hx : Arena.alloc a id = some x) :
    (x.channels.length = 1 ∨ x.channels.length = 2) ∧
      (∀ c ∈ x.channels, a[c].stamp = x.timestamp ∧ a[c].dual = x.isDualVoice) ∧
      (x.channels.length = 2 → x.isDualVoice = true) := by
  obtain ⟨-, hchannels, c, cs, howned, hstamp, hdual⟩ := alloc_eq_some a id x hx
  obtain ⟨hbusy, rfl⟩ := (mem_owned a id c).mp (howned ▸ List.mem_cons_self)
  obtain ⟨hle, htwo, hagree⟩ := ha c hbusy
  rw [hchannels, hstamp, hdual]
  refine ⟨?_, fun d hd => hagree d ((mem_owned a _ d).mp hd), htwo⟩
  rw [howned, List.length_cons] at hle ⊢
  omega

/-- Settles O16: a channel determines its owner and an identity its allocation, so that the live allocations partition
the busy channels. -/
theorem allocationViewsMeetTheInvariants : Obligations.AllocationViewsMeetTheInvariants := fun a =>
  ⟨live_channels_nodup a, mem_live_channels a, live_noteIds_nodup a, sum_live_lengths a, allocated_le a,
    fun ha _ _ hx => alloc_of_wellShaped ha hx⟩

end Sys2Proof.Machine
end

section
/-! Reset, the statistics commands, and what a command's commit leaves unchanged (10_state.md R23, R39, R40, R44). -/

namespace Sys2Proof.Machine

/-- Settles O1: the fields of the reset state. -/
theorem resetLeavesTheBlockEmpty : Obligations.ResetLeavesTheBlockEmpty :=
  ⟨resetWith_slots_getElem configDefault, resetWith_keyshadow_getElem configDefault, rfl, rfl, rfl, rfl⟩

/-! ## Counts -/

theorem channels_eq_finRange : channels = List.finRange 9 := by decide

theorem free_eq_countP (a : Arena) : Arena.free a = (List.finRange 9).countP fun c => !a[c].busy := by
  rw [Arena.free, channels_eq_finRange, List.countP_eq_length_filter]

theorem allocated_eq_countP (a : Arena) : Arena.allocated a = (List.finRange 9).countP fun c => a[c].busy := by
  rw [Arena.allocated, channels_eq_finRange, List.countP_eq_length_filter]

/-- Every channel is free or allocated (10_state.md R39). -/
theorem free_add_allocated (a : Arena) : Arena.free a + Arena.allocated a = 9 := by
  have h := List.length_eq_length_filter_add (l := channels) fun c => a[c].busy
  rw [Arena.free, Arena.allocated, Nat.add_comm, ← h, length_channels]

/-- Settles O31: both commands commit the same silent plan, a response with the three counts. -/
theorem statisticsCommandsOnlyReport : Obligations.StatisticsCommandsOnlyReport := by
  intro s
  dsimp only
  rw [← free_eq_countP, ← allocated_eq_countP]
  have hcommit : s.commit (planGetStats s) =
      { s with resp := s.resp ++ [statusOk :: statsPayload s.slots], port := s.port.tail } := by
    simp [State.commit, planGetStats, Plan.start, Plan.reply]
  have hrun : runPlan s (planGetStats s) = s.commit (planGetStats s) := runPlan_silent s _ rfl
  exact ⟨congrArg _ (hrun.trans hcommit), congrArg _ (hrun.trans hcommit), free_add_allocated s.slots⟩

/-! ## Commits -/

theorem admits_of_writeCount {i : Instr} {s : State} {p : Plan} (hp : Instr.plan i s = some p)
    (h : writeCount i s = 0 ∨ s.wq.length + writeCount i s ≤ s.cfg.wqDepth) : admits s p := by
  rw [writeCount_of_plan hp] at h
  exact h.imp_left List.length_eq_zero_iff.mp

/-- Settles O46: an admitted command commits its plan. -/
theorem admittedCommandCommits : Obligations.AdmittedCommandCommits := by
  intro i s hi hroom
  obtain ⟨p, hp⟩ := exists_plan hi s
  refine ⟨p.slots, p.keyshadow, p.pending, p.diags, p.resp, (writeCount_of_plan hp).symm, ?_⟩
  rw [exec_eq_runPlan hp, runPlan_admitted s p (admits_of_writeCount hp hroom)]
  rfl

/-! ## What allocator commands and LOAD_PATCH leave unchanged -/

/-- A plan that emits nothing and keeps the shadow leaves the queue and the key shadow as they were. -/
theorem runPlan_of_silent {s : State} {p : Plan} (hpending : p.pending = []) (hshadow : p.keyshadow = s.keyshadow) :
    (runPlan s p).wq = s.wq ∧ (runPlan s p).keyshadow = s.keyshadow := by
  rw [runPlan_silent s p hpending]
  exact ⟨by simp [hpending], hshadow⟩

/-- LOAD_PATCH writes no key byte (42_engine.md R207). -/
theorem planLoadPatch_keyshadow (ch : Byte) (patch : Patch) (s : State) :
    (planLoadPatch ch patch s).keyshadow = s.keyshadow := by
  unfold planLoadPatch
  split <;> rfl

/-- Settles O51: the plans of these commands touch the arena and the response, and LOAD_PATCH's the writes and the
response. -/
theorem allocatorCommandsEmitNothing : Obligations.AllocatorCommandsEmitNothing := by
  intro i s t hexec
  constructor
  · rintro (⟨id, now, rfl⟩ | ⟨id, now, rfl⟩ | ⟨id, rfl⟩ | rfl | rfl | ⟨id, rfl⟩ | rfl) <;>
      (injection hexec with h; subst h; exact runPlan_of_silent rfl rfl)
  · rintro ⟨ch, patch, rfl⟩
    obtain rfl : runPlan s (planLoadPatch ch patch s) = t := by injection hexec
    rcases runPlan_cases s (planLoadPatch ch patch s) with ⟨-, h⟩ | ⟨-, h⟩ <;> rw [h]
    · exact ⟨planLoadPatch_slots ch patch s, planLoadPatch_keyshadow ch patch s⟩
    · exact ⟨rfl, rfl⟩

end Sys2Proof.Machine
end

section
/-! What a step runs (20_memory.md R62), and the hold of a command whose writes do not fit (R63). -/

namespace Sys2Proof.Machine

/-! ## The next agent -/

theorem nextAgent_of_audio_turn {s : State} {rest : List Agent} (h : s.turns = .audio :: rest) :
    s.nextAgent = .audio := by
  rw [State.nextAgent, h]
  rfl

/-- The control agent moves on its own turn, and when no turn is left (20_memory.md R62). -/
theorem nextAgent_of_no_audio_turn {s : State} (h : s.turns.head? ≠ some .audio) : s.nextAgent = .control := by
  unfold State.nextAgent
  match hturns : s.turns with
  | [] => rfl
  | .control :: _ => rfl
  | .audio :: rest => exact absurd (congrArg List.head? hturns) h

/-- Settles O3: the three kinds of step, by the agent whose turn it is and by what waits on the port. -/
theorem stepRunsTheNextAgentsInstruction : Obligations.StepRunsTheNextAgentsInstruction := by
  intro s
  refine ⟨fun rest hturns => ?_, fun p ps hturns hport => ?_, fun hturns hport => ?_⟩
  · rw [step_of_audio (nextAgent_of_audio_turn hturns), State.takeTurn, hturns]
    rfl
  · exact step_of_packet (nextAgent_of_no_audio_turn hturns) hport
  · exact step_of_idle (nextAgent_of_no_audio_turn hturns) hport

/-! ## The hold -/

theorem not_admits_of_writeCount {i : Instr} {s : State} {p : Plan} (hp : Instr.plan i s = some p)
    (hsome : writeCount i s ≠ 0) (hfull : s.cfg.wqDepth < s.wq.length + writeCount i s) : ¬admits s p := by
  rw [writeCount_of_plan hp] at hsome hfull
  rintro (hsilent | hroom)
  · exact hsome (List.length_eq_zero_iff.mpr hsilent)
  · exact absurd hroom (Nat.not_le.mpr hfull)

/-- Settles O45: an instruction that emits a write is a command, and its plan is not admitted. -/
theorem heldCommandChangesNothing : Obligations.HeldCommandChangesNothing := by
  intro i s hsome hfull
  have hcommand : i ≠ .render := by
    rintro rfl
    exact hsome rfl
  obtain ⟨p, hp⟩ := exists_plan hcommand s
  rw [exec_eq_runPlan hp, runPlan_held s p (not_admits_of_writeCount hp hsome hfull)]

end Sys2Proof.Machine
end

section
/-! The addresses of the writes each command emits: with the default register map, all are addresses of the map
(20_memory.md R57, 42_engine.md R211). -/

namespace Sys2Proof.Machine

/-! ## The writes of the commands that do not allocate -/

/-- `keyOff` on distinct channels appends one write for each, of its shadow with the key-on bit clear
(42_engine.md R181). -/
theorem keyOffAll_pending (p : Plan) (m : RegMap) {cs : List Channel} (hd : cs.Nodup) :
    (p.keyOffAll m cs).pending = p.pending ++ cs.map fun c => ⟨keyAddr m c, keyOffByte m p.keyshadow[c]⟩ := by
  obtain ⟨-, -, -, hpending, -⟩ := keyOffAll_eq m cs hd p
  exact hpending

/-- NOTE_OFF keys off the channels held, or, rejecting its note, emits nothing (42_engine.md R198). -/
theorem planNoteOff_pending (track : TrackId) (note : Byte) (s : State) :
    (planNoteOff track note s).pending =
      if noteOutOfRange note then []
      else (Arena.owned s.slots { track := track, note := note }).map fun c =>
        ⟨keyAddr s.cfg.regmap c, keyOffByte s.cfg.regmap s.keyshadow[c]⟩ := by
  unfold planNoteOff
  split
  · rfl
  · simp [keyOffAll_pending _ _ (owned_nodup _ _)]

/-- ALL_NOTES_OFF keys off all nine channels (42_engine.md R202). -/
theorem planAllNotesOff_pending (s : State) :
    (planAllNotesOff s).pending =
      channels.map fun c => ⟨keyAddr s.cfg.regmap c, keyOffByte s.cfg.regmap s.keyshadow[c]⟩ := by
  simp [planAllNotesOff, keyOffAll_pending _ _ channels_nodup]

/-- LOAD_PATCH programs voice1 on its channel, or, rejecting its channel, emits nothing (42_engine.md R207). -/
theorem planLoadPatch_pending (ch : Byte) (patch : Patch) (s : State) :
    (planLoadPatch ch patch s).pending =
      (channelOperand ch).elim [] fun c => encodeVoice s.cfg.regmap c patch.voice1 := by
  unfold planLoadPatch
  cases channelOperand ch <;> rfl

/-! ## Addresses of the default register map -/

/-- The bases of the five bytes of an operator slot (30_encoding.md R97). -/
def operatorBases : List Addr := [0x20, 0x40, 0x60, 0x80, 0xE0]

/-- The 18 operator slots (30_encoding.md R96). -/
def operatorSlots : List Addr :=
  [0x00, 0x01, 0x02, 0x03, 0x04, 0x05, 0x08, 0x09, 0x0A, 0x0B, 0x0C, 0x0D, 0x10, 0x11, 0x12, 0x13, 0x14, 0x15]

/-- The bases of the three bytes of a channel (30_encoding.md R101). -/
def channelBases : List Addr := [0xA0, 0xB0, 0xC0]

theorem registerMapAddrs_eq :
    registerMapAddrs = (operatorBases.flatMap fun base => operatorSlots.map (base + ·)) ++
      channelBases.flatMap fun base => channels.map (channelAddr base) := rfl

theorem slotAddr_mem_registerMapAddrs {base : Addr} {slot : Byte} (hbase : base ∈ operatorBases)
    (hslot : slot.setWidth 16 ∈ operatorSlots) : slotAddr base slot ∈ registerMapAddrs := by
  rw [registerMapAddrs_eq]
  exact List.mem_append_left _ (List.mem_flatMap.mpr ⟨base, hbase, List.mem_map.mpr ⟨_, hslot, rfl⟩⟩)

theorem channelAddr_mem_registerMapAddrs {base : Addr} (hbase : base ∈ channelBases) (c : Channel) :
    channelAddr base c ∈ registerMapAddrs := by
  rw [registerMapAddrs_eq]
  exact List.mem_append_right _ (List.mem_flatMap.mpr ⟨base, hbase, List.mem_map.mpr ⟨c, mem_channels c, rfl⟩⟩)

/-- The default slot table names operator slots of the map (30_encoding.md R96). -/
theorem slotsOf_default_mem (c : Channel) :
    (slotsOf regmapDefault c).1.setWidth 16 ∈ operatorSlots ∧ (slotsOf regmapDefault c).2.setWidth 16 ∈ operatorSlots := by
  revert c
  decide

/-! ## Writes inside the register map -/

/-- Every write of a list has an address of the default register map (20_memory.md R57). -/
def inRegisterMap (ws : List RegWrite) : Prop := ∀ w ∈ ws, w.addr ∈ registerMapAddrs

/-- The invariant of the state is this predicate of its committed writes. -/
theorem writesInMap_iff (s : State) : State.writesInMap s ↔ inRegisterMap s.committed := Iff.rfl

@[simp] theorem inRegisterMap_nil : inRegisterMap [] := fun _ hw => absurd hw List.not_mem_nil

@[simp] theorem inRegisterMap_cons (w : RegWrite) (ws : List RegWrite) :
    inRegisterMap (w :: ws) ↔ w.addr ∈ registerMapAddrs ∧ inRegisterMap ws := List.forall_mem_cons

@[simp] theorem inRegisterMap_append (ws vs : List RegWrite) :
    inRegisterMap (ws ++ vs) ↔ inRegisterMap ws ∧ inRegisterMap vs := List.forall_mem_append

theorem inRegisterMap_flatMap {α : Type} {xs : List α} {f : α → List RegWrite} (h : ∀ x, inRegisterMap (f x)) :
    inRegisterMap (xs.flatMap f) := by
  intro w hw
  obtain ⟨x, -, hx⟩ := List.mem_flatMap.mp hw
  exact h x w hx

theorem inRegisterMap_encodeOperator {slot : Byte} (hslot : slot.setWidth 16 ∈ operatorSlots) (o : Operator) :
    inRegisterMap (encodeOperator regmapDefault slot o) := by
  have hmem {base : Addr} (hbase : base ∈ operatorBases) := slotAddr_mem_registerMapAddrs hbase hslot
  simp only [encodeOperator, inRegisterMap_cons]
  exact ⟨hmem (by decide), hmem (by decide), hmem (by decide), hmem (by decide), hmem (by decide), inRegisterMap_nil⟩

theorem inRegisterMap_encodeVoice (c : Channel) (v : Voice) : inRegisterMap (encodeVoice regmapDefault c v) := by
  obtain ⟨hmod, hcar⟩ := slotsOf_default_mem c
  simp only [encodeVoice, inRegisterMap_append, inRegisterMap_cons]
  exact ⟨⟨inRegisterMap_encodeOperator hmod v.mod, inRegisterMap_encodeOperator hcar v.car⟩,
    channelAddr_mem_registerMapAddrs (by decide) c, inRegisterMap_nil⟩

/-- A key byte is a channel byte of the map (30_encoding.md R101). -/
theorem keyAddr_default_mem (c : Channel) : keyAddr regmapDefault c ∈ registerMapAddrs :=
  channelAddr_mem_registerMapAddrs (base := regmapDefault.keyBase) (by decide) c

theorem inRegisterMap_keyOnWrites {cfg : Config} (hmap : cfg.regmap = regmapDefault) (note : Byte)
    (cv : Channel × Voice) : inRegisterMap (keyOnWrites cfg note cv) := by
  simp only [keyOnWrites, hmap, inRegisterMap_cons]
  exact ⟨channelAddr_mem_registerMapAddrs (by decide) cv.1, keyAddr_default_mem cv.1, inRegisterMap_nil⟩

theorem inRegisterMap_keyWrites (cs : List Channel) (f : Channel → Byte) :
    inRegisterMap (cs.map fun c => ⟨keyAddr regmapDefault c, f c⟩) := by
  intro w hw
  obtain ⟨c, -, rfl⟩ := List.mem_map.mp hw
  exact keyAddr_default_mem c

theorem inRegisterMap_soundVoices {p : Plan} {cfg : Config} (hmap : cfg.regmap = regmapDefault)
    (hp : inRegisterMap p.pending) (note : Byte) (vs : List (Channel × Voice)) :
    inRegisterMap (p.soundVoices cfg note vs).pending := by
  simp only [soundVoices_pending, inRegisterMap_append, hmap]
  exact ⟨⟨hp, inRegisterMap_flatMap fun cv => inRegisterMap_encodeVoice cv.1 cv.2⟩,
    inRegisterMap_flatMap (inRegisterMap_keyOnWrites hmap note)⟩

/-! ## The commands -/

/-- With the default register map, no command emits a write outside it (42_engine.md R211). -/
theorem plan_inRegisterMap {i : Instr} {s : State} {p : Plan} (hmap : s.cfg.regmap = regmapDefault)
    (h : Instr.plan i s = some p) : inRegisterMap p.pending := by
  cases i
  case render => cases h
  all_goals injection h with h; subst h
  case noteOn track note velocity now patch =>
    rcases planNoteOn_pending_cases track note velocity now patch s with hsilent | hsound
    · rw [hsilent]
      exact inRegisterMap_nil
    · rw [hsound]
      exact inRegisterMap_soundVoices hmap inRegisterMap_nil note _
  case noteOff track note =>
    rw [planNoteOff_pending, hmap]
    split
    · exact inRegisterMap_nil
    · exact inRegisterMap_keyWrites _ _
  case allNotesOff =>
    rw [planAllNotesOff_pending, hmap]
    exact inRegisterMap_keyWrites _ _
  case loadPatch ch patch =>
    rw [planLoadPatch_pending, hmap]
    cases channelOperand ch with
    | none => exact inRegisterMap_nil
    | some c => exact inRegisterMap_encodeVoice c patch.voice1
  all_goals exact inRegisterMap_nil

/-- Settles O58: a commit adds the writes of one command, all inside the map; no other step commits a write. -/
theorem stepWritesOnlyTheRegisterMap : Obligations.StepWritesOnlyTheRegisterMap := by
  intro s t hmap hs hstep
  rw [writesInMap_iff] at hs ⊢
  rcases step_cases hstep with rfl | rfl | ⟨packet, rest, p, -, hplan, -, rfl⟩
  · exact hs
  · rwa [renderWith_committed, takeTurn_committed]
  · rw [commit_committed, takeTurn_committed, inRegisterMap_append]
    exact ⟨hs, plan_inRegisterMap (s := s.takeTurn) hmap hplan⟩

end Sys2Proof.Machine
end

section
/-! The host buffers: RENDER keeps them canonical and within HOST_BUFFER_LEN, and no other step writes them
(20_memory.md R55, 43_bridge.md R223). -/

namespace Sys2Proof.Machine

/-! ## One buffer -/

/-- A buffer in canonical form with every index below a length (20_memory.md R55). -/
def Memory.fitsIn (n : Nat) (m : Memory) : Prop := Memory.wf m ∧ ∀ p ∈ m, p.1 < n

/-- The invariant of the state is this predicate of both its buffers. -/
theorem buffersOk_iff (s : State) :
    State.buffersOk s ↔ Memory.fitsIn s.cfg.hostBufferLen s.bufL ∧ Memory.fitsIn s.cfg.hostBufferLen s.bufR := by
  simp only [Memory.fitsIn]
  tauto

theorem fitsIn_write {n i : Nat} {m : Memory} (hm : Memory.fitsIn n m) (hi : i < n) (x : F32) :
    Memory.fitsIn n (Memory.write m i x) := by
  obtain ⟨hwf, hbelow⟩ := hm
  refine ⟨wf_write m i x hwf, fun q hq => ?_⟩
  rcases mem_write m i x q hq with hq | ⟨y, hy⟩
  · rwa [hq]
  · exact hbelow (q.1, y) hy

/-- A run of samples that ends within the length keeps the buffer within it. -/
theorem fitsIn_writeFrom {n : Nat} {m : Memory} {i : Nat} {xs : List Sample} (hm : Memory.fitsIn n m)
    (hi : i + xs.length ≤ n) : Memory.fitsIn n (writeFrom m i xs) := by
  induction xs generalizing m i with
  | nil => exact hm
  | cons x xs ih =>
    rw [List.length_cons] at hi
    exact ih (fitsIn_write hm (by omega) (toF32 x)) (by omega)

/-! ## RENDER -/

/-- A chunk writes its samples into both buffers from its offset up (43_bridge.md R218). -/
theorem renderChunk_eq (chip : Collaborator) (off chunk : Nat) (s : State) :
    renderChunk chip off chunk s =
      { s with
        chip := s.chip ++ [.generate chunk]
        bufL := writeFrom s.bufL off (chip s.chip chunk).toList
        bufR := writeFrom s.bufR off (chip s.chip chunk).toList } :=
  writeSamples_eq off _ _

theorem renderChunk_buffersOk (chip : Collaborator) {off chunk : Nat} {s : State} (hs : State.buffersOk s)
    (hend : off + chunk ≤ s.cfg.hostBufferLen) : State.buffersOk (renderChunk chip off chunk s) := by
  rw [buffersOk_iff] at hs ⊢
  obtain ⟨hL, hR⟩ := hs
  have hlen : off + (chip s.chip chunk).toList.length ≤ s.cfg.hostBufferLen := by rwa [Vector.length_toList]
  rw [renderChunk_eq]
  exact ⟨fitsIn_writeFrom hL hlen, fitsIn_writeFrom hR hlen⟩

/-- A turn of RENDER's loop asks for no more samples than the buffer has indices left (43_bridge.md R222). -/
theorem renderLoop_buffersOk (chip : Collaborator) (turns off : Nat) {s : State} (hs : State.buffersOk s) :
    State.buffersOk (renderLoop chip turns off s) := by
  induction turns generalizing off s with
  | zero => exact hs
  | succ turns ih =>
    rw [renderLoop]
    split
    · exact ih _ (renderChunk_buffersOk chip hs (by omega))
    · exact hs

theorem renderWith_buffersOk (chip : Collaborator) {s : State} (hs : State.buffersOk s) :
    State.buffersOk (renderWith chip s) := by
  refine renderLoop_buffersOk chip _ _ ?_
  rw [drain_eq]
  exact hs

/-- Settles O59: only RENDER writes the buffers. -/
theorem stepKeepsTheBuffersCanonical : Obligations.StepKeepsTheBuffersCanonical := by
  intro s t hs hstep
  rcases step_cases hstep with rfl | rfl | ⟨packet, rest, p, -, -, -, rfl⟩
  · exact hs
  · exact renderWith_buffersOk Config.chipGenerate (s := s.takeTurn) hs
  · exact hs

end Sys2Proof.Machine
end

section
/-! Which packets decode, and to what (30_encoding.md R77, R80, R90): the cases of the decoder, and what a packet that
does not decode does to the block. -/

namespace Sys2Proof.Machine

/-! ## The cases of the decoder -/

/-- A packet that is not empty decodes to its command if its opcode is defined and demands its length
(30_encoding.md R77). -/
theorem decode_cons (op : Byte) (rest : Packet) :
    decode (op :: rest) =
      if opcodeLength op = some (rest.length + 1) then readCommand op (op :: rest)
      else .illegal op (rest.length + 1) := by
  simp only [decode, decodeCommand]
  cases opcodeLength op with
  | none => rfl
  | some n =>
    by_cases hlen : rest.length + 1 = n
    · simp [hlen]
    · simp [hlen, Ne.symm hlen]

/-- To decode a packet of the length its opcode demands is to read its command. -/
theorem decode_of_length {p : Packet} {op : Byte} {i : Instr} (hop : p.head? = some op)
    (hlen : opcodeLength op = some p.length) (hread : readCommand op p = i) : decode p = i := by
  subst hread
  cases p with
  | nil => cases hop
  | cons op' rest =>
    obtain rfl : op' = op := Option.some.inj hop
    exact (decode_cons op' rest).trans (if_pos hlen)

/-- A reserved opcode and a wrong length are one case: the opcode does not demand the packet's length. -/
theorem decode_of_length_ne {op : Byte} {rest : Packet} (h : opcodeLength op ≠ some (rest.length + 1)) :
    decode (op :: rest) = .illegal op (rest.length + 1) := by
  rw [decode_cons, if_neg h]

/-- Only a reserved opcode has no command to read (30_encoding.md R80, R81). -/
theorem readCommand_ne_illegal {op : Byte} (hop : opcodeLength op ≠ none) (p : Packet) (o : Byte) (l : Nat) :
    readCommand op p ≠ .illegal o l := by
  unfold readCommand
  split
  case h_12 => exact absurd (by unfold opcodeLength; split <;> simp_all) hop
  all_goals nofun

/-- The ranges of the opcode map that no command has (30_encoding.md R80). -/
theorem opcodeLength_of_reserved {op : Byte} (h : op = 0x00 ∨ (0x06 ≤ op ∧ op ≤ 0x0F) ∨ 0x16 ≤ op) :
    opcodeLength op = none := by
  unfold opcodeLength
  split
  case h_12 => rfl
  all_goals bv_omega

/-- Settles O7: the empty packet is the decoder's first case, and `decode_cons` says the others. -/
theorem decodeClassifiesEveryPacket : Obligations.DecodeClassifiesEveryPacket := by
  refine ⟨rfl, fun op rest => ?_⟩
  cases hop : opcodeLength op with
  | none => exact decode_of_length_ne (by simp [hop])
  | some n =>
    dsimp only
    split
    case isTrue hlen =>
      intro o l
      rw [decode_of_length rfl (by rw [hop, List.length_cons, hlen]) rfl]
      exact readCommand_ne_illegal (by simp [hop]) _ o l
    case isFalse hlen => exact decode_of_length_ne (by simpa [hop] using Ne.symm hlen)

/-! ## Packets that do not decode -/

theorem decode_of_undecodable {p : Packet}
    (h : p = [] ∨ opcodeLength (p.headD 0) = none ∨ opcodeLength (p.headD 0) ≠ some p.length) :
    decode p = .illegal (p.headD 0xFF) p.length := by
  cases p with
  | nil => rfl
  | cons op rest =>
    refine decode_of_length_ne fun hlen => ?_
    rcases h with hnil | hreserved | hwrong
    · cases hnil
    · exact absurd (hreserved.symm.trans hlen) nofun
    · exact hwrong hlen

/-- ILLEGAL_COMMAND emits no write, so it is always admitted, and its plan is an abort (30_encoding.md R90). -/
theorem exec_illegal (op : Byte) (n : Nat) (s : State) :
    exec (.illegal op n) s = .next { s with
      diag := s.diag ++ [.illegalCommand op n], resp := s.resp ++ [[0x04]], port := s.port.tail } := by
  have hcommit : runPlan s (planIllegal op n s) = s.commit (planIllegal op n s) :=
    runPlan_silent s _ (abort_pending s _ _)
  rw [exec_eq_runPlan (i := .illegal op n) rfl, hcommit]
  simp [State.commit, planIllegal, Plan.abort, statusIllegalCommand]

/-- Settles O9: an undecodable packet decodes to ILLEGAL_COMMAND with its opcode and length. -/
theorem illegalPacketOnlyReports : Obligations.IllegalPacketOnlyReports := by
  refine ⟨exec_illegal, fun p s h => ?_⟩
  rw [decode_of_undecodable h]
  exact exec_illegal _ _ s

/-- Settles O5: four packets of the length their opcode demands, and one that is a byte too long. -/
theorem samplePacketsDecode : Obligations.SamplePacketsDecode :=
  ⟨decode_of_length rfl rfl rfl, decode_of_length rfl rfl rfl, decode_of_length rfl rfl rfl,
    decode_of_length rfl rfl rfl, decode_of_length_ne (by decide)⟩

end Sys2Proof.Machine
end

section
/-! Decoding inverts encoding (30_encoding.md R78 to R85): each field is read back from the bytes it is written to,
wherever they lie in the packet. -/

namespace Sys2Proof.Machine

/-! ## Reading at an offset -/

section Offset
variable {p bs : Packet} {k : Nat}

/-- What lies at `k` starts with the bytes `bs`: reading from `k` on is reading `bs`. -/
theorem byteAt_of_drop (h : p.drop k = bs) (j : Nat) : byteAt p (k + j) = byteAt bs j := by
  subst h
  simp [byteAt, List.getD_eq_getElem?_getD]

theorem drop_add_of_drop (h : p.drop k = bs) (j : Nat) : p.drop (k + j) = bs.drop j := by
  rw [← h, List.drop_drop]

/-! ## Numbers -/

theorem u16At_of_drop {x : BitVec 16} (h : p.drop k = bytes16 x ++ bs) : u16At p k = x := by
  have hlow : byteAt p k = x.extractLsb' 0 8 := byteAt_of_drop h 0
  have hhigh : byteAt p (k + 1) = x.extractLsb' 8 8 := byteAt_of_drop h 1
  rw [u16At, hlow, hhigh, BitVec.extractLsb'_append_extractLsb'_eq_extractLsb' (start₁ := 0) (len₁ := 8) rfl]
  exact BitVec.extractLsb'_eq_self

theorem u32At_of_drop {x : BitVec 32} (h : p.drop k = bytes32 x ++ bs) : u32At p k = x := by
  have h0 : byteAt p k = x.extractLsb' 0 8 := byteAt_of_drop h 0
  have h1 : byteAt p (k + 1) = x.extractLsb' 8 8 := byteAt_of_drop h 1
  have h2 : byteAt p (k + 2) = x.extractLsb' 16 8 := byteAt_of_drop h 2
  have h3 : byteAt p (k + 3) = x.extractLsb' 24 8 := byteAt_of_drop h 3
  rw [u32At, h0, h1, h2, h3,
    BitVec.extractLsb'_append_extractLsb'_eq_extractLsb' (start₁ := 16) (len₁ := 8) rfl,
    BitVec.extractLsb'_append_extractLsb'_eq_extractLsb' (start₁ := 8) (len₁ := 8) rfl,
    BitVec.extractLsb'_append_extractLsb'_eq_extractLsb' (start₁ := 0) (len₁ := 8) rfl]
  exact BitVec.extractLsb'_eq_self

theorem noteIdAt_of_drop {id : NoteId} (h : p.drop k = bytesNoteId id ++ bs) : noteIdAt p k = id := by
  have htrack : u16At p k = id.track := u16At_of_drop (bs := id.note :: bs) h
  have hnote : byteAt p (k + 2) = id.note := byteAt_of_drop h 2
  rw [noteIdAt, htrack, hnote]

/-! ## Flags -/

@[simp] theorem flagBit_or (x y : Byte) (b : Nat) : flagBit (x ||| y) b = (flagBit x b || flagBit y b) :=
  BitVec.getLsbD_or

/-- A flag byte has its flag at its own position and nowhere else. -/
@[simp] theorem flagBit_flagByte (f : Bool) {b c : Nat} (hc : c < 8) :
    flagBit (flagByte f b) c = (f && decide (c = b)) := by
  cases f with
  | false => simp [flagBit, flagByte]
  | true =>
    rw [flagBit, flagByte, if_pos rfl, BitVec.getLsbD_shiftLeft, BitVec.getLsbD_one, Bool.eq_iff_iff]
    simp only [Nat.ofNat_pos, decide_true, Bool.true_and, Bool.and_eq_true, decide_eq_true_eq,
      Bool.not_eq_true', decide_eq_false_iff_not]
    omega

theorem connectionOf_byteConnection (c : Connection) : connectionOf (byteConnection c) = c := by
  cases c <;> rfl

/-! ## Images -/

theorem operatorAt_of_drop {o : Operator} (h : p.drop k = bytesOperator o ++ bs) : operatorAt p k = o := by
  have hbyte (j : Nat) : byteAt p (k + j) = byteAt (bytesOperator o ++ bs) j := byteAt_of_drop h j
  have hfirst : byteAt p k = o.attack := hbyte 0
  simp only [operatorAt, hfirst, hbyte]
  simp [byteAt, bytesOperator]

theorem voiceAt_of_drop {v : Voice} (h : p.drop k = bytesVoice v ++ bs) : voiceAt p k = v := by
  have hmod : operatorAt p k = v.mod := operatorAt_of_drop (drop_add_of_drop h 0)
  have hcar : operatorAt p (k + 9) = v.car := operatorAt_of_drop (drop_add_of_drop h 9)
  have hfeedback : byteAt p (k + 18) = v.feedback := byteAt_of_drop h 18
  have hconnection : byteAt p (k + 19) = byteConnection v.connection := byteAt_of_drop h 19
  have hoffset : byteAt p (k + 20) = v.baseNoteOffset := byteAt_of_drop h 20
  rw [voiceAt, hmod, hcar, hfeedback, hconnection, hoffset, connectionOf_byteConnection]

/-- The second voice is read where its flag says it is present (30_encoding.md R82). -/
theorem patchAt_of_drop {patch : Patch} (h : p.drop k = bytesPatch patch) : patchAt p k = patch := by
  have hflags : byteAt p k = flagByte patch.dualVoiceEnabled 0 ||| flagByte patch.voice2.isSome 1 :=
    byteAt_of_drop h 0
  have hvoice1 : voiceAt p (k + 1) = patch.voice1 := voiceAt_of_drop (drop_add_of_drop h 1)
  have hvoice2 : p.drop (k + 22) = bytesVoice2 patch.voice2 := drop_add_of_drop h 22
  obtain ⟨dual, voice1, _ | voice2⟩ := patch
  · simp [patchAt, hflags, hvoice1]
  · have hsecond : voiceAt p (k + 22) = voice2 := voiceAt_of_drop (hvoice2.trans (List.append_nil _).symm)
    simp [patchAt, hflags, hvoice1, hsecond]

end Offset

/-! ## Instructions -/

theorem decodeInput_of_length {p : Packet} {op : Byte} {i : Instr} (hop : p.head? = some op)
    (hlen : opcodeLength op = some p.length) (hread : readCommand op p = i) : decodeInput (.packet p) = i :=
  decode_of_length hop hlen hread

theorem decode_encode_noteOn (track : TrackId) (note velocity : Byte) (now : Stamp) (patch : Patch) :
    decodeInput (encode (.noteOn track note velocity now patch)) = .noteOn track note velocity now patch := by
  refine decodeInput_of_length rfl ?_ ?_
  · simp [opcodeLength, bytes16, bytes32, Laws.length_bytesPatch]
  · change Instr.noteOn (u16At _ 1) note velocity (u32At _ 5) (patchAt _ 9) = _
    congr 1
    · exact u16At_of_drop rfl
    · exact u32At_of_drop rfl
    · exact patchAt_of_drop rfl

theorem decode_encode_loadPatch (channel : Byte) (patch : Patch) :
    decodeInput (encode (.loadPatch channel patch)) = .loadPatch channel patch := by
  refine decodeInput_of_length rfl ?_ ?_
  · simp [opcodeLength, Laws.length_bytesPatch]
  · exact congrArg (Instr.loadPatch channel) (patchAt_of_drop rfl)

theorem decode_encode_noteOff (track : TrackId) (note : Byte) :
    decodeInput (encode (.noteOff track note)) = .noteOff track note := by
  refine decodeInput_of_length rfl rfl ?_
  exact congrArg (Instr.noteOff · note) (u16At_of_drop rfl)

theorem decode_encode_allocChannel (id : NoteId) (now : Stamp) :
    decodeInput (encode (.allocChannel id now)) = .allocChannel id now := by
  refine decodeInput_of_length rfl rfl ?_
  exact congrArg₂ Instr.allocChannel (noteIdAt_of_drop rfl) (u32At_of_drop (bs := []) rfl)

theorem decode_encode_allocDual (id : NoteId) (now : Stamp) :
    decodeInput (encode (.allocDual id now)) = .allocDual id now := by
  refine decodeInput_of_length rfl rfl ?_
  exact congrArg₂ Instr.allocDual (noteIdAt_of_drop rfl) (u32At_of_drop (bs := []) rfl)

theorem decode_encode_releaseNote (id : NoteId) : decodeInput (encode (.releaseNote id)) = .releaseNote id := by
  refine decodeInput_of_length rfl rfl ?_
  exact congrArg Instr.releaseNote (noteIdAt_of_drop (bs := []) rfl)

theorem decode_encode_getAllocation (id : NoteId) : decodeInput (encode (.getAllocation id)) = .getAllocation id := by
  refine decodeInput_of_length rfl rfl ?_
  exact congrArg Instr.getAllocation (noteIdAt_of_drop (bs := []) rfl)

/-- A packet that reports the length `n` has that length, so that the opcode must not demand it; without a byte it
reports 0xFF (30_encoding.md R90). -/
theorem decode_encode_illegal {op : Byte} {n : Nat} (h : (Instr.illegal op n).wellFormed = true) :
    decodeInput (encode (.illegal op n)) = .illegal op n := by
  simp only [Instr.wellFormed, illegalEmptyOk, illegalLengthOk, Bool.and_eq_true] at h
  obtain ⟨hempty, hlength⟩ := h
  cases n with
  | zero =>
    obtain rfl : op = 0xFF := by simpa using hempty
    rfl
  | succ n =>
    have hne : opcodeLength op ≠ some (n + 1) := by simpa using hlength
    have hrest : (List.replicate n (0 : Byte)).length = n := List.length_replicate
    exact (decode_of_length_ne (hrest.symm ▸ hne)).trans (congrArg (Instr.illegal op <| · + 1) hrest)

/-- Settles O6: each row's fields are read back from where the row's layout puts them (30_encoding.md R81). -/
theorem decodeInvertsEncode : Obligations.DecodeInvertsEncode := by
  intro i hi
  cases i with
  | noteOn track note velocity now patch => exact decode_encode_noteOn track note velocity now patch
  | noteOff track note => exact decode_encode_noteOff track note
  | allNotesOff => rfl
  | getChannelStats => rfl
  | loadPatch channel patch => exact decode_encode_loadPatch channel patch
  | allocChannel id now => exact decode_encode_allocChannel id now
  | allocDual id now => exact decode_encode_allocDual id now
  | releaseNote id => exact decode_encode_releaseNote id
  | getStats => rfl
  | getAllocation id => exact decode_encode_getAllocation id
  | resetAllocator => rfl
  | render => rfl
  | illegal op n => exact decode_encode_illegal hi

end Sys2Proof.Machine
end

section
/-! Reserved bits (30_encoding.md R89): a patch image is read through a mask on each byte, and bytes that agree under
the masks decode to the same patch. -/

namespace Sys2Proof.Machine

/-! ## Masks of what is read -/

/-- The bits read of each byte of an operator image (30_encoding.md R84). -/
def operatorMask (j : Nat) : Byte := if j = 8 then 0x0F else BitVec.allOnes 8

/-- The bits read of each byte of a voice image (30_encoding.md R83). -/
def voiceMask (j : Nat) : Byte :=
  if j < 18 then operatorMask (j % 9) else if j = 19 then 0x01 else BitVec.allOnes 8

/-- The bits read of each byte of a patch image (30_encoding.md R82). -/
def patchMask (j : Nat) : Byte := if j = 0 then 0x03 else voiceMask ((j - 1) % 21)

/-- The `n` bytes from `k` on are the same in both packets, as far as a mask on each shows. -/
def AgreeUnder (mask : Nat → Byte) (n k : Nat) (p q : Packet) : Prop :=
  ∀ j < n, byteAt p (k + j) &&& mask j = byteAt q (k + j) &&& mask j

/-- A part of an agreeing image agrees under the part's own masks. -/
theorem AgreeUnder.part {mask mask' : Nat → Byte} {n n' k : Nat} {p q : Packet} (h : AgreeUnder mask n k p q) (i : Nat)
    (hmask : ∀ j < n', i + j < n ∧ mask (i + j) = mask' j) : AgreeUnder mask' n' (k + i) p q := by
  intro j hj
  obtain ⟨hin, heq⟩ := hmask j hj
  rw [← heq, Nat.add_assoc]
  exact h (i + j) hin

theorem AgreeUnder.byteAt_eq {mask : Nat → Byte} {n k : Nat} {p q : Packet} (h : AgreeUnder mask n k p q) (j : Nat)
    (hj : j < n) (hmask : mask j = BitVec.allOnes 8) : byteAt p (k + j) = byteAt q (k + j) := by
  simpa only [hmask, BitVec.and_allOnes] using h j hj

/-- A flag is read the same where its bit is in the mask. -/
theorem AgreeUnder.flagBit_eq {mask : Nat → Byte} {n k : Nat} {p q : Packet} (h : AgreeUnder mask n k p q) (j b : Nat)
    (hj : j < n) (hmask : (mask j).getLsbD b = true) :
    flagBit (byteAt p (k + j)) b = flagBit (byteAt q (k + j)) b := by
  simpa only [flagBit, BitVec.getLsbD_and, hmask, Bool.and_true] using congrArg (BitVec.getLsbD · b) (h j hj)

/-! ## Images -/

theorem operatorAt_congr {k : Nat} {p q : Packet} (h : AgreeUnder operatorMask 9 k p q) :
    operatorAt p k = operatorAt q k := by
  have hbyte (j : Nat) (hj : j < 8) : byteAt p (k + j) = byteAt q (k + j) :=
    h.byteAt_eq j (by omega) (if_neg (by omega))
  have hflag (b : Nat) (hb : b < 4) : flagBit (byteAt p (k + 8)) b = flagBit (byteAt q (k + 8)) b :=
    h.flagBit_eq 8 b (by omega) (by interval_cases b <;> rfl)
  have hfirst : byteAt p k = byteAt q k := hbyte 0 (by omega)
  simp [operatorAt, hfirst, hbyte, hflag]

theorem voiceAt_congr {k : Nat} {p q : Packet} (h : AgreeUnder voiceMask 21 k p q) : voiceAt p k = voiceAt q k := by
  have hmod : operatorAt p k = operatorAt q k := operatorAt_congr (h.part 0 (by decide))
  have hcar : operatorAt p (k + 9) = operatorAt q (k + 9) := operatorAt_congr (h.part 9 (by decide))
  have hfeedback : byteAt p (k + 18) = byteAt q (k + 18) := h.byteAt_eq 18 (by decide) rfl
  have hconnection : flagBit (byteAt p (k + 19)) 0 = flagBit (byteAt q (k + 19)) 0 :=
    h.flagBit_eq 19 0 (by decide) rfl
  have hoffset : byteAt p (k + 20) = byteAt q (k + 20) := h.byteAt_eq 20 (by decide) rfl
  rw [voiceAt, voiceAt, hmod, hcar, hfeedback, connectionOf, hconnection, hoffset, connectionOf]

/-- The bits outside the masks are the reserved bits of a patch image, and they are not read. -/
theorem patchAt_congr {k : Nat} {p q : Packet} (h : AgreeUnder patchMask 43 k p q) : patchAt p k = patchAt q k := by
  have hdual : flagBit (byteAt p k) 0 = flagBit (byteAt q k) 0 := h.flagBit_eq 0 0 (by decide) rfl
  have hsecond : flagBit (byteAt p k) 1 = flagBit (byteAt q k) 1 := h.flagBit_eq 0 1 (by decide) rfl
  have hvoice1 : voiceAt p (k + 1) = voiceAt q (k + 1) := voiceAt_congr (h.part 1 (by decide))
  have hvoice2 : voiceAt p (k + 22) = voiceAt q (k + 22) := voiceAt_congr (h.part 22 (by decide))
  rw [patchAt, patchAt, hdual, hsecond, hvoice1, hvoice2]

/-! ## Replacing one byte -/

theorem byteAt_set_ne {p : Packet} {n k : Nat} (h : n ≠ k) (y : Byte) : byteAt (p.set n y) k = byteAt p k := by
  simp [byteAt, List.getD_eq_getElem?_getD, List.getElem?_set_ne h]

/-- Past the end nothing is replaced, and the byte stays its default. -/
theorem byteAt_set_self (p : Packet) (n : Nat) (y : Byte) :
    byteAt (p.set n y) n = y ∨ byteAt (p.set n y) n = byteAt p n := by
  rcases Nat.lt_or_ge n p.length with hin | hout
  · exact .inl (by simp [byteAt, List.getD_eq_getElem?_getD, hin])
  · exact .inr (by rw [List.set_eq_of_length_le hout])

/-- Replacing a byte of an image by one with the same read bits. -/
theorem agreeUnder_set {mask : Nat → Byte} {k j : Nat} {p : Packet} {y : Byte}
    (hy : y &&& mask j = byteAt p (k + j) &&& mask j) (n : Nat) : AgreeUnder mask n k (p.set (k + j) y) p := by
  intro i _
  by_cases hij : j = i
  · subst hij
    rcases byteAt_set_self p (k + j) y with h | h <;> rw [h]
    exact hy
  · rw [byteAt_set_ne (by omega)]

/-! ## Commands that carry a patch -/

/-- The bytes of a NOTE_ON packet before its patch are read whole (30_encoding.md R81). -/
theorem readCommand_noteOn_congr {p q : Packet} (hhead : ∀ k < 9, byteAt p k = byteAt q k)
    (hpatch : patchAt p 9 = patchAt q 9) : readCommand 0x01 p = readCommand 0x01 q := by
  change Instr.noteOn (u16At p 1) (byteAt p 3) (byteAt p 4) (u32At p 5) (patchAt p 9) = .noteOn _ _ _ _ _
  simp [u16At, u32At, hhead, hpatch]

theorem readCommand_loadPatch_congr {p q : Packet} (hhead : ∀ k < 2, byteAt p k = byteAt q k)
    (hpatch : patchAt p 2 = patchAt q 2) : readCommand 0x05 p = readCommand 0x05 q := by
  change Instr.loadPatch (byteAt p 1) (patchAt p 2) = .loadPatch _ _
  rw [hhead 1 (by decide), hpatch]

/-- Replacing a byte after the opcode changes at most the command that is read. -/
theorem decode_set_congr {op : Byte} {rest : Packet} {n : Nat} {y : Byte}
    (h : readCommand op ((op :: rest).set (n + 1) y) = readCommand op (op :: rest)) :
    decode ((op :: rest).set (n + 1) y) = decode (op :: rest) := by
  rw [List.set_cons_succ] at h ⊢
  rw [decode_cons, decode_cons, h, List.length_set]

/-- The seven bytes of a patch image that have reserved bits, with the bits that are read of each. -/
theorem patchMask_of_reserved {j : Nat} {used : Byte}
    (h : (j, used) ∈ ([(0, 0x03), (9, 0x0F), (18, 0x0F), (20, 0x01), (30, 0x0F), (39, 0x0F), (41, 0x01)] :
      List (Nat × Byte))) : patchMask j = used := by
  simp only [List.mem_cons, Prod.mk.injEq, List.not_mem_nil, or_false] at h
  rcases h with ⟨rfl, rfl⟩ | ⟨rfl, rfl⟩ | ⟨rfl, rfl⟩ | ⟨rfl, rfl⟩ | ⟨rfl, rfl⟩ | ⟨rfl, rfl⟩ | ⟨rfl, rfl⟩ <;> rfl

/-- Settles O8: the new byte agrees with the old one under the masks of the image, and the bytes before the image are
as they were. -/
theorem reservedBitsNeverMatter : Obligations.ReservedBitsNeverMatter := by
  refine ⟨fun p base j used y hp hj hy => ?_, fun op rest hop => ?_⟩
  · obtain rfl := patchMask_of_reserved hj
    have hpatch : patchAt (p.set (base + j) y) base = patchAt p base := patchAt_congr (agreeUnder_set hy 43)
    have hhead (k : Nat) (hk : k < base) : byteAt (p.set (base + j) y) k = byteAt p k := byteAt_set_ne (by omega) y
    cases p with
    | nil => rfl
    | cons op rest =>
      rw [List.head?_cons, Option.some_inj, Option.some_inj] at hp
      rcases hp with ⟨rfl, rfl⟩ | ⟨rfl, rfl⟩
      · rw [show 9 + j = 8 + j + 1 by omega] at hhead hpatch ⊢
        exact decode_set_congr (readCommand_noteOn_congr hhead hpatch)
      · rw [show 2 + j = 1 + j + 1 by omega] at hhead hpatch ⊢
        exact decode_set_congr (readCommand_loadPatch_congr hhead hpatch)
  · exact decode_of_length_ne (by simp [opcodeLength_of_reserved hop])

end Sys2Proof.Machine
end

section
/-! The register bytes in arithmetic (40_encoder.md R112 to R118): a field is its value modulo its width times its
place, and fields on disjoint bits add up. -/

namespace Sys2Proof.Machine

/-! ## Fields -/

/-- Masking to `w` bits is reduction modulo `2 ^ w` (40_encoder.md R112). -/
theorem toNat_maskTo {w : Nat} (hw : w ≤ 8) (v : Byte) : (maskTo w v).toNat = v.toNat % 2 ^ w := by
  have hmask : 2 ^ w - 1 < 2 ^ 8 :=
    (Nat.sub_one_lt (Nat.two_pow_pos w).ne').trans_le (Nat.pow_le_pow_right Nat.two_pos hw)
  rw [maskTo, BitVec.toNat_and, BitVec.toNat_ofNat, Nat.mod_eq_of_lt hmask, Nat.and_two_pow_sub_one_eq_mod]

/-- A field inside the byte loses no bit when it is placed. -/
theorem toNat_fieldAt {w pos : Nat} (h : w + pos ≤ 8) (v : Byte) :
    (fieldAt w pos v).toNat = 2 ^ pos * (v.toNat % 2 ^ w) := by
  have hlt : v.toNat % 2 ^ w * 2 ^ pos < 2 ^ 8 := calc
    v.toNat % 2 ^ w * 2 ^ pos < 2 ^ w * 2 ^ pos :=
      Nat.mul_lt_mul_of_pos_right (Nat.mod_lt _ (Nat.two_pow_pos w)) (Nat.two_pow_pos pos)
    _ = 2 ^ (w + pos) := (Nat.pow_add 2 w pos).symm
    _ ≤ 2 ^ 8 := Nat.pow_le_pow_right Nat.two_pos h
  rw [fieldAt, BitVec.toNat_shiftLeft, toNat_maskTo (by omega), Nat.shiftLeft_eq, Nat.mod_eq_of_lt hlt, Nat.mul_comm]

/-- A flag is the one-bit field of 1 or 0 (40_encoder.md R112). -/
theorem flagAt_eq_fieldAt (pos : Nat) (f : Bool) : flagAt pos f = fieldAt 1 pos (if f then 1 else 0) := by
  cases f
  · exact (BitVec.zero_shiftLeft pos).symm
  · rfl

/-- The bits of `y` all lie below the bits of `x`, so that `|||` carries nothing. -/
theorem toNat_or_of_dvd_of_lt {x y : Byte} {n : Nat} (hx : 2 ^ n ∣ x.toNat) (hy : y.toNat < 2 ^ n) :
    (x ||| y).toNat = x.toNat + y.toNat := by
  obtain ⟨a, ha⟩ := hx
  rw [BitVec.toNat_or, ha, Nat.two_pow_add_eq_or_of_lt hy]

/-- A field joined to bits above it adds its value times its place. -/
theorem toNat_or_fieldAt {x : Byte} {w pos : Nat} (h : w + pos ≤ 8) (hx : 2 ^ (w + pos) ∣ x.toNat) (v : Byte) :
    (x ||| fieldAt w pos v).toNat = x.toNat + 2 ^ pos * (v.toNat % 2 ^ w) := by
  have hlt : (fieldAt w pos v).toNat < 2 ^ (w + pos) := by
    rw [toNat_fieldAt h, Nat.add_comm, Nat.pow_add]
    exact Nat.mul_lt_mul_of_pos_left (Nat.mod_lt _ (Nat.two_pow_pos w)) (Nat.two_pow_pos pos)
  rw [toNat_or_of_dvd_of_lt hx hlt, toNat_fieldAt h]

theorem toNat_flagAt {pos : Nat} (h : pos < 8) (f : Bool) : (flagAt pos f).toNat = 2 ^ pos * f.toNat := by
  rw [flagAt_eq_fieldAt, toNat_fieldAt (by omega)]
  cases f <;> rfl

theorem toNat_or_flagAt {x : Byte} {pos : Nat} (h : pos < 8) (hx : 2 ^ (pos + 1) ∣ x.toNat) (f : Bool) :
    (x ||| flagAt pos f).toNat = x.toNat + 2 ^ pos * f.toNat := by
  rw [flagAt_eq_fieldAt, toNat_or_fieldAt (by omega) (by rwa [Nat.add_comm])]
  cases f <;> rfl

/-! ## The bytes of an operator and of a voice, in the default register map -/

/-- The characteristics byte (40_encoder.md R113), its fields joined from the highest bit down. -/
theorem toNat_charByte_default (o : Operator) :
    (charByte regmapDefault o).toNat =
      128 * o.tremolo.toNat + 64 * o.vibrato.toNat + 32 * o.sustaining.toNat + 16 * o.keyScaleRate.toNat +
        o.multiplier.toNat % 16 := by
  have htremolo := toNat_flagAt (pos := 7) (by decide) o.tremolo
  have hvibrato := toNat_or_flagAt (pos := 6) (by decide) (Dvd.intro _ htremolo.symm) o.vibrato
  have hsustaining := toNat_or_flagAt (pos := 5) (by decide) (by rw [hvibrato]; omega) o.sustaining
  have hkeyScaleRate := toNat_or_flagAt (pos := 4) (by decide) (by rw [hsustaining]; omega) o.keyScaleRate
  have hmultiplier := toNat_or_fieldAt (w := 4) (pos := 0) (by decide) (by rw [hkeyScaleRate]; omega) o.multiplier
  change (flagAt 7 o.tremolo ||| flagAt 6 o.vibrato ||| flagAt 5 o.sustaining ||| flagAt 4 o.keyScaleRate |||
    fieldAt 4 0 o.multiplier).toNat = _
  omega

theorem toNat_levelByte_default (o : Operator) :
    (levelByte regmapDefault o).toNat = 64 * (o.keyScaleLevel.toNat % 4) + o.outputLevel.toNat % 64 := by
  have hlevel := toNat_fieldAt (w := 2) (pos := 6) (by decide) o.keyScaleLevel
  have hboth := toNat_or_fieldAt (w := 6) (pos := 0) (by decide) (Dvd.intro _ hlevel.symm) o.outputLevel
  change (fieldAt 2 6 o.keyScaleLevel ||| fieldAt 6 0 o.outputLevel).toNat = _
  omega

/-- Two fields of four bits, as in the attack/decay and the sustain/release byte (30_encoding.md R100). -/
theorem toNat_nibbles (x y : Byte) : (fieldAt 4 4 x ||| fieldAt 4 0 y).toNat = 16 * (x.toNat % 16) + y.toNat % 16 := by
  have hhigh := toNat_fieldAt (w := 4) (pos := 4) (by decide) x
  have hboth := toNat_or_fieldAt (w := 4) (pos := 0) (by decide) (Dvd.intro _ hhigh.symm) y
  omega

theorem toNat_adByte_default (o : Operator) :
    (adByte regmapDefault o).toNat = 16 * (o.attack.toNat % 16) + o.decay.toNat % 16 := toNat_nibbles _ _

theorem toNat_srByte_default (o : Operator) :
    (srByte regmapDefault o).toNat = 16 * (o.sustain.toNat % 16) + o.release.toNat % 16 := toNat_nibbles _ _

theorem toNat_waveByte_default (o : Operator) : (waveByte regmapDefault o).toNat = o.waveform.toNat % 8 := by
  have hwave := toNat_fieldAt (w := 3) (pos := 0) (by decide) o.waveform
  change (fieldAt 3 0 o.waveform).toNat = _
  omega

/-- The feedback/connection byte, in any register map (40_encoder.md R117). -/
theorem toNat_fbcntByte (v : Voice) :
    (fbcntByte v).toNat = 2 * (v.feedback.toNat % 8) + (if v.connection = .fm then 1 else 0) := by
  have hfeedback := toNat_fieldAt (w := 3) (pos := 1) (by decide) v.feedback
  have hcnt : (cntBit v.connection).toNat = if v.connection = .fm then 1 else 0 := by cases v.connection <;> rfl
  have hboth := toNat_or_of_dvd_of_lt (n := 1) (Dvd.intro _ hfeedback.symm)
    (show (cntBit v.connection).toNat < 2 ^ 1 by cases v.connection <;> decide)
  change (fieldAt 3 1 v.feedback ||| cntBit v.connection).toNat = _
  omega

/-! ## The writes of an operator and of a voice -/

/-- Settles O10: the default bases, and the arithmetic of each of the five bytes. -/
theorem operatorWritesInArithmetic : Obligations.OperatorWritesInArithmetic := by
  intro slot o
  simp only [encodeOperator, List.map_cons, List.map_nil, toNat_charByte_default, toNat_levelByte_default,
    toNat_adByte_default, toNat_srByte_default, toNat_waveByte_default]
  rfl

/-- The default slot table, channel by channel (30_encoding.md R96). -/
theorem slotsOf_default_getElem? (c : Channel) :
    ([(0x00, 0x03), (0x01, 0x04), (0x02, 0x05), (0x08, 0x0B), (0x09, 0x0C), (0x0A, 0x0D), (0x10, 0x13), (0x11, 0x14),
      (0x12, 0x15)] : List (Byte × Byte))[c.val]? = some (slotsOf regmapDefault c) := by
  revert c
  decide

/-- Settles O11: the slots are the table's, the last byte is `fbcntByte`. -/
theorem voiceWritesElevenRegisters : Obligations.VoiceWritesElevenRegisters := fun c v =>
  ⟨(slotsOf regmapDefault c).1, (slotsOf regmapDefault c).2, fbcntByte v, slotsOf_default_getElem? c,
    toNat_fbcntByte v, rfl, length_encodeVoice regmapDefault c v⟩

end Sys2Proof.Machine
end

section
/-! The registers of a voice (40_encoder.md R121, R122), with the default register map. An operator address gives its slot
back modulo 0x20 and lies outside 0xA0 to 0xDF, where the channel bytes are; no slot serves two channels. -/

namespace Sys2Proof.Machine

/-- The two operator slots of a channel in the default table (30_encoding.md R96). -/
def voiceSlots (c : Channel) : List Byte := [(slotsOf regmapDefault c).1, (slotsOf regmapDefault c).2]

theorem voiceSlots_lt {c : Channel} {slot : Byte} (h : slot ∈ voiceSlots c) : slot.toNat < 32 := by
  suffices hall : ∀ c, ∀ slot ∈ voiceSlots c, slot.toNat < 32 from hall c slot h
  decide

/-- No operator slot serves two channels (30_encoding.md R96). -/
theorem voiceSlots_disjoint {c d : Channel} (hne : d ≠ c) {slot : Byte} (hd : slot ∈ voiceSlots d) :
    slot ∉ voiceSlots c := by
  suffices hall : ∀ c d : Channel, d ≠ c → ∀ slot ∈ voiceSlots d, slot ∉ voiceSlots c from hall c d hne slot hd
  decide

/-! ## Operator and channel addresses -/

/-- The bases are multiples of 0x20 and the slots are below it, so an operator address keeps its slot and stays out of the
channel bytes. -/
theorem toNat_operatorAddr {base : Addr} (hbase : base ∈ operatorBases) {slot : Byte} (hslot : slot.toNat < 32) :
    (slotAddr base slot).toNat % 32 = slot.toNat ∧
      ((slotAddr base slot).toNat < 0xA0 ∨ 0xE0 ≤ (slotAddr base slot).toNat) := by
  have haddr : (slotAddr base slot).toNat = (base.toNat + slot.toNat) % 2 ^ 16 := by
    rw [slotAddr, BitVec.toNat_add, BitVec.toNat_setWidth_of_le (by decide)]
  simp only [operatorBases, List.mem_cons, List.not_mem_nil, or_false] at hbase
  rcases hbase with rfl | rfl | rfl | rfl | rfl <;> simp only [BitVec.reduceToNat] at haddr <;> omega

/-- A channel byte: its offset from the base is the channel. -/
theorem toNat_channelAddr {base : Addr} (hbase : base ∈ channelBases) (c : Channel) :
    (channelAddr base c).toNat = base.toNat + c.val := by
  simp only [channelBases, List.mem_cons, List.not_mem_nil, or_false] at hbase
  have haddr : (channelAddr base c).toNat = (base.toNat + c.val % 2 ^ 16) % 2 ^ 16 := by
    rw [channelAddr, BitVec.toNat_add, BitVec.toNat_ofNat]
  rcases hbase with rfl | rfl | rfl <;> simp only [BitVec.reduceToNat] at haddr ⊢ <;> omega

/-! ## The writes of a voice -/

theorem mem_encodeOperator_default {slot : Byte} {o : Operator} {w : RegWrite}
    (h : w ∈ encodeOperator regmapDefault slot o) : ∃ base ∈ operatorBases, w.addr = slotAddr base slot := by
  have haddr : w.addr ∈ operatorBases.map (slotAddr · slot) := List.mem_map_of_mem h
  obtain ⟨base, hbase, heq⟩ := List.mem_map.mp haddr
  exact ⟨base, hbase, heq.symm⟩

/-- What programming a voice writes: the operator bytes of the channel's two slots, and its feedback/connection byte
(40_encoder.md R121). -/
theorem mem_encodeVoice_default {c : Channel} {v : Voice} {w : RegWrite} (h : w ∈ encodeVoice regmapDefault c v) :
    (∃ slot ∈ voiceSlots c, ∃ base ∈ operatorBases, w.addr = slotAddr base slot) ∨ w.addr = channelAddr 0xC0 c := by
  simp only [encodeVoice, List.mem_append, List.mem_singleton] at h
  rcases h with (hmod | hcar) | rfl
  · exact .inl ⟨_, .head _, mem_encodeOperator_default hmod⟩
  · exact .inl ⟨_, .tail _ (.head _), mem_encodeOperator_default hcar⟩
  · exact .inr rfl

/-- The same, read off the address: an operator byte outside the channel bytes, or the channel's own feedback/connection
byte. -/
theorem toNat_addr_of_mem_encodeVoice {c : Channel} {v : Voice} {w : RegWrite}
    (h : w ∈ encodeVoice regmapDefault c v) :
    (∃ slot ∈ voiceSlots c, w.addr.toNat % 32 = slot.toNat ∧ (w.addr.toNat < 0xA0 ∨ 0xE0 ≤ w.addr.toNat)) ∨
      w.addr.toNat = 0xC0 + c.val := by
  rcases mem_encodeVoice_default h with ⟨slot, hslot, base, hbase, haddr⟩ | haddr <;> rw [haddr]
  · exact .inl ⟨slot, hslot, toNat_operatorAddr hbase (voiceSlots_lt hslot)⟩
  · exact .inr (toNat_channelAddr (by decide) c)

/-- Programming a voice writes no F-number byte and no key byte (40_encoder.md R121). -/
theorem encodeVoice_addr_ne_channelAddr {c : Channel} {v : Voice} {w : RegWrite}
    (h : w ∈ encodeVoice regmapDefault c v) {base : Addr} (hbase : base = 0xA0 ∨ base = 0xB0) (d : Channel) :
    w.addr ≠ channelAddr base d := by
  intro heq
  have hd : w.addr.toNat = base.toNat + d.val := by
    rw [heq, toNat_channelAddr (by rcases hbase with rfl | rfl <;> decide)]
  have hbound : 0xA0 ≤ base.toNat ∧ base.toNat ≤ 0xB0 := by rcases hbase with rfl | rfl <;> decide
  rcases toNat_addr_of_mem_encodeVoice h with ⟨slot, -, -, hrow⟩ | hc <;> omega

/-- The write sets of two channels are disjoint (40_encoder.md R122): equal operator addresses have equal slots, and equal
feedback/connection addresses are of one channel. -/
theorem encodeVoice_addr_disjoint {c d : Channel} (hne : d ≠ c) {v u : Voice} {w x : RegWrite}
    (hw : w ∈ encodeVoice regmapDefault c v) (hx : x ∈ encodeVoice regmapDefault d u) : x.addr ≠ w.addr := by
  intro heq
  have hxaddr := toNat_addr_of_mem_encodeVoice hx
  rw [heq] at hxaddr
  rcases toNat_addr_of_mem_encodeVoice hw with ⟨slot, hslot, hcol, hrow⟩ | hc <;>
    rcases hxaddr with ⟨slot', hslot', hcol', hrow'⟩ | hd
  · obtain rfl : slot' = slot := BitVec.eq_of_toNat_eq (hcol'.symm.trans hcol)
    exact voiceSlots_disjoint hne hslot' hslot
  · omega
  · omega
  · exact hne (Fin.ext (by omega))

/-- Settles O12: F-number and key bytes lie below 0xC0 and no operator byte lies among them; across channels the slots and
the feedback/connection bytes differ. -/
theorem voicesProgramDisjointRegisters : Obligations.VoicesProgramDisjointRegisters := fun _ _ _ hw =>
  ⟨fun d => ⟨encodeVoice_addr_ne_channelAddr hw (.inl rfl) d, encodeVoice_addr_ne_channelAddr hw (.inr rfl) d⟩,
    fun _ _ hne _ hx => encodeVoice_addr_disjoint hne hw hx⟩

end Sys2Proof.Machine
end

section
/-! Allocations seen from their channels: the lowest channel of a view, and what releasing one identity or several after
another leaves of it (10_state.md R24; 41_allocator.md R139, R143). -/

namespace Sys2Proof.Machine

/-! ## Arenas given slot by slot -/

@[simp] theorem ofFn_getElem {α : Type} (f : Channel → α) (c : Channel) : (Vector.ofFn f)[c] = f c :=
  Vector.getElem_ofFn c.isLt

theorem eq_ofFn {a : Arena} {f : Channel → Slot} (h : ∀ c : Channel, a[c] = f c) : a = Vector.ofFn f :=
  arena_ext fun c => (h c).trans (ofFn_getElem f c).symm

theorem set_getElem (a : Arena) (c d : Channel) (x : Slot) : (a.set c x)[d] = if c = d then x else a[d] :=
  put_getElem a c d x

/-! ## The lowest channel -/

/-- A rising list begins with its lowest member. -/
theorem eq_cons_of_lowest {l : List Channel} (hsorted : l.Pairwise (· < ·)) {c : Channel} (hc : c ∈ l)
    (hlow : ∀ j < c, j ∉ l) : ∃ rest, l = c :: rest := by
  cases l with
  | nil => cases hc
  | cons d ds =>
    rcases List.mem_cons.mp hc with rfl | hmem
    · exact ⟨ds, rfl⟩
    · exact absurd List.mem_cons_self (hlow d (List.rel_of_pairwise_cons hsorted hmem))

theorem owned_eq_filter (a : Arena) (id : NoteId) :
    Arena.owned a id = (List.finRange 9).filter fun c => decide (Arena.holds a id c) := by
  rw [Arena.owned, channels_eq_finRange]
  exact List.filter_congr fun c _ => by rw [Bool.decide_and, Bool.decide_eq_true, Bool.beq_eq_decide_eq]

/-- The allocation of an identity whose lowest channel is `c` (10_state.md R24). -/
theorem alloc_of_lowest {a : Arena} {id : NoteId} {c : Channel} (hc : Arena.holds a id c)
    (hlow : ∀ j < c, ¬Arena.holds a id j) :
    Arena.alloc a id = some
      { noteId := id, channels := Arena.owned a id, timestamp := a[c].stamp, isDualVoice := a[c].dual } := by
  obtain ⟨rest, howned⟩ := eq_cons_of_lowest (owned_sorted a id) ((mem_owned a id c).mpr hc)
    fun j hj hmem => hlow j hj ((mem_owned a id j).mp hmem)
  simp [Arena.alloc, howned]

/-- A live allocation holds its lowest channel and takes its stamp and flag from it (10_state.md R24). -/
theorem lowest_of_live {a : Arena} {x : Allocation} (hx : x ∈ Arena.live a) :
    Arena.holds a x.noteId x.lowest ∧ x.timestamp = a[x.lowest].stamp ∧ x.isDualVoice = a[x.lowest].dual := by
  obtain ⟨-, hchannels, c, cs, howned, hstamp, hdual⟩ := alloc_eq_some a _ x ((mem_live a x).mp hx)
  obtain rfl : x.lowest = c := by rw [Allocation.lowest, hchannels, howned, List.headD_cons]
  exact ⟨(mem_owned a _ _).mp (howned ▸ List.mem_cons_self), hstamp, hdual⟩

/-- Two live allocations do not share their lowest channel. -/
theorem live_ext_of_lowest {a : Arena} {x y : Allocation} (hx : x ∈ Arena.live a) (hy : y ∈ Arena.live a)
    (h : x.lowest = y.lowest) : x = y := by
  obtain ⟨⟨-, hxowner⟩, -⟩ := lowest_of_live hx
  obtain ⟨⟨-, hyowner⟩, -⟩ := lowest_of_live hy
  rw [h] at hxowner
  exact live_ext hx hy (hxowner.symm.trans hyowner)

/-! ## Releasing one identity -/

theorem release_getElem_of_holds (a : Arena) (id : NoteId) (c : Channel) :
    (Arena.release a id)[c] = if Arena.holds a id c then Slot.free else a[c] := by
  rw [release_getElem]
  simp only [mem_owned]

theorem release_of_idle {a : Arena} {id : NoteId} (h : Arena.idle a id) : Arena.release a id = a :=
  arena_ext fun c => by rw [release_getElem_of_holds, if_neg (h c)]

theorem release_busy_eq_false_iff (a : Arena) (id : NoteId) (c : Channel) :
    (Arena.release a id)[c].busy = false ↔ a[c].busy = false ∨ Arena.holds a id c := by
  rw [release_getElem_of_holds]
  split
  · next h => exact ⟨fun _ => .inr h, fun _ => rfl⟩
  · next h => exact ⟨.inl, fun hc => hc.resolve_right h⟩

/-! ## Releasing identities one after another -/

/-- The arena once every identity of a list has been released, in its order (41_allocator.md R143). -/
def Arena.releaseIds (a : Arena) (ids : List NoteId) : Arena := ids.foldl Arena.release a

theorem releaseIds_cons (a : Arena) (id : NoteId) (ids : List NoteId) :
    Arena.releaseIds a (id :: ids) = Arena.releaseIds (Arena.release a id) ids := rfl

theorem releaseIds_append (a : Arena) (ids others : List NoteId) :
    Arena.releaseIds a (ids ++ others) = Arena.releaseIds (Arena.releaseIds a ids) others := List.foldl_append

theorem releaseIds_getElem (a : Arena) (ids : List NoteId) (c : Channel) :
    (Arena.releaseIds a ids)[c] = if a[c].busy = true ∧ a[c].owner ∈ ids then Slot.free else a[c] := by
  induction ids generalizing a with
  | nil => simp [Arena.releaseIds]
  | cons id ids ih =>
    rw [releaseIds_cons, ih, release_getElem_of_holds]
    by_cases h : Arena.holds a id c
    · simp only [if_pos h, ite_self]
      rw [if_pos ⟨h.1, h.2 ▸ List.mem_cons_self⟩]
    · have hcons : (a[c].busy = true ∧ a[c].owner ∈ id :: ids) ↔ a[c].busy = true ∧ a[c].owner ∈ ids := by
        rw [List.mem_cons]
        exact ⟨fun ⟨hbusy, hmem⟩ => ⟨hbusy, hmem.resolve_left fun howner => h ⟨hbusy, howner⟩⟩,
          fun ⟨hbusy, hmem⟩ => ⟨hbusy, .inr hmem⟩⟩
      simp only [if_neg h, hcons]

/-- The free channels afterwards: those free before, and those of the identities released. -/
theorem releaseIds_busy_eq_false_iff (a : Arena) (ids : List NoteId) (c : Channel) :
    (Arena.releaseIds a ids)[c].busy = false ↔ a[c].busy = false ∨ a[c].owner ∈ ids := by
  rw [releaseIds_getElem]
  split
  · next h => exact ⟨fun _ => .inr h.2, fun _ => rfl⟩
  · next h =>
    refine ⟨.inl, fun hc => hc.elim id fun hmem => ?_⟩
    exact Bool.eq_false_iff.mpr fun hbusy => h ⟨hbusy, hmem⟩

/-- A channel still busy afterwards has kept its slot. -/
theorem releaseIds_getElem_of_busy {a : Arena} {ids : List NoteId} {c : Channel}
    (h : (Arena.releaseIds a ids)[c].busy = true) : (Arena.releaseIds a ids)[c] = a[c] := by
  rw [releaseIds_getElem] at h ⊢
  split at h
  · cases h
  · next hc => rw [if_neg hc]

theorem holds_releaseIds_iff (a : Arena) (ids : List NoteId) (id : NoteId) (c : Channel) :
    Arena.holds (Arena.releaseIds a ids) id c ↔ Arena.holds a id c ∧ id ∉ ids := by
  rw [Arena.holds, releaseIds_getElem]
  split
  · next h =>
    exact ⟨fun hfree => absurd hfree.1 Bool.false_ne_true, fun hc => absurd h.2 (hc.1.2 ▸ hc.2)⟩
  · next h =>
    exact ⟨fun hc => ⟨hc, fun hmem => h ⟨hc.1, hc.2 ▸ hmem⟩⟩, fun hc => hc.1⟩

theorem alloc_releaseIds_of_not_mem (a : Arena) {ids : List NoteId} {id : NoteId} (h : id ∉ ids) :
    Arena.alloc (Arena.releaseIds a ids) id = Arena.alloc a id := by
  have howned : Arena.owned (Arena.releaseIds a ids) id = Arena.owned a id := by
    rw [owned_eq_filter, owned_eq_filter]
    exact List.filter_congr fun c _ => decide_eq_decide.mpr ((holds_releaseIds_iff a ids id c).trans (and_iff_left h))
  unfold Arena.alloc
  rw [howned]
  split
  · rfl
  · next c cs hcs =>
    have hc : Arena.holds a id c := (mem_owned a id c).mp (hcs ▸ List.mem_cons_self)
    rw [releaseIds_getElem, if_neg fun hmem => h (hc.2 ▸ hmem.2)]

theorem wellShaped_releaseIds {a : Arena} (ha : Arena.wellShaped a) (ids : List NoteId) :
    Arena.wellShaped (Arena.releaseIds a ids) := by
  induction ids generalizing a with
  | nil => exact ha
  | cons id ids ih => exact ih (wellShaped_release id ha)

/-- The allocations left are those of the identities not released, as they were. -/
theorem mem_live_releaseIds (a : Arena) (ids : List NoteId) (x : Allocation) :
    x ∈ Arena.live (Arena.releaseIds a ids) ↔ x ∈ Arena.live a ∧ x.noteId ∉ ids := by
  rw [mem_live, mem_live]
  by_cases h : x.noteId ∈ ids
  · have hidle : Arena.alloc (Arena.releaseIds a ids) x.noteId = none :=
      (alloc_eq_none _ _).mpr fun c hc => ((holds_releaseIds_iff a ids _ c).mp hc).2 h
    simp [hidle, h]
  · rw [alloc_releaseIds_of_not_mem a h, and_iff_left h]

theorem length_freeSet_releaseIds (a : Arena) (ids : List NoteId) :
    (Arena.freeSet (Arena.releaseIds a ids)).length =
      (List.finRange 9).countP fun c => !a[c].busy || ids.contains a[c].owner := by
  refine (free_eq_countP (Arena.releaseIds a ids)).trans (List.countP_congr fun c _ => ?_)
  simpa using releaseIds_busy_eq_false_iff a ids c

end Sys2Proof.Machine
end

section
/-! The eviction order read at channels (41_allocator.md R141, R142): in a well-shaped arena the allocation with the least key
is the one that holds the channel with the least (stamp, channel), and that channel is its lowest. -/

namespace Sys2Proof.Machine

/-- Channel `c` comes before channel `d` in the eviction order: an older stamp, or the same stamp and a lower channel
(41_allocator.md R141). -/
abbrev Arena.precedes (a : Arena) (c d : Channel) : Prop :=
  a[c].stamp < a[d].stamp ∨ (a[c].stamp = a[d].stamp ∧ c < d)

theorem lt_of_precedes_of_stamp_eq {a : Arena} {c d : Channel} (h : Arena.precedes a c d)
    (hstamp : a[d].stamp = a[c].stamp) : c < d := by
  rcases h with hlt | ⟨-, hlt⟩
  · rw [hstamp, BitVec.lt_def] at hlt
    exact absurd hlt (lt_irrefl _)
  · exact hlt

theorem keyLt_iff_precedes {a : Arena} {x y : Allocation} (hx : x ∈ Arena.live a) (hy : y ∈ Arena.live a) :
    x.keyLt y = true ↔ Arena.precedes a x.lowest y.lowest := by
  obtain ⟨-, hxstamp, -⟩ := lowest_of_live hx
  obtain ⟨-, hystamp, -⟩ := lowest_of_live hy
  rw [keyLt_iff, hxstamp, hystamp]

/-- The order of eviction keys is total on the live allocations, since they do not share a lowest channel
(41_allocator.md R141). -/
theorem keyLt_of_not_keyLt {a : Arena} {x y : Allocation} (hx : x ∈ Arena.live a) (hy : y ∈ Arena.live a)
    (hne : y ≠ x) (h : y.keyLt x = false) : x.keyLt y = true := by
  have hlowest : y.lowest ≠ x.lowest := fun heq => hne (live_ext_of_lowest hy hx heq)
  rw [← Bool.not_eq_true, keyLt_iff] at h
  rw [keyLt_iff]
  simp only [BitVec.lt_def, Fin.lt_def, BitVec.toNat_eq, ne_eq, Fin.ext_iff] at *
  omega

/-- In a well-shaped arena a channel that precedes its owner's other channels is the owner's lowest, since these agree on
the stamp (10_state.md R27). -/
theorem exists_live_of_least {a : Arena} (ha : Arena.wellShaped a) {v : Channel} (hbusy : a[v].busy = true)
    (hleast : ∀ j : Channel, j ≠ v → Arena.holds a a[v].owner j → Arena.precedes a v j) :
    (∀ j < v, ¬Arena.holds a a[v].owner j) ∧
      ∃ y ∈ Arena.live a, y.noteId = a[v].owner ∧ y.lowest = v ∧ y.isDualVoice = a[v].dual := by
  obtain ⟨-, -, hagree⟩ := ha v hbusy
  have hlow : ∀ j < v, ¬Arena.holds a a[v].owner j := fun j hj hold =>
    (lt_of_precedes_of_stamp_eq (hleast j hj.ne hold) (hagree j hold).1).not_gt hj
  obtain ⟨rest, howned⟩ := eq_cons_of_lowest (owned_sorted a a[v].owner) ((mem_owned a _ v).mpr ⟨hbusy, rfl⟩)
    fun j hj hmem => hlow j hj ((mem_owned a _ j).mp hmem)
  refine ⟨hlow, { noteId := a[v].owner, .. }, (mem_live a _).mpr (alloc_of_lowest ⟨hbusy, rfl⟩ hlow), rfl, ?_, rfl⟩
  rw [Allocation.lowest, howned, List.headD_cons]

/-- Where channel `v` precedes all other busy channels, its owner's allocation is the only one that can have the least key
among allocations of its voice type and others (41_allocator.md R142). -/
theorem noteId_of_least {a : Arena} (ha : Arena.wellShaped a) {v : Channel} (hbusy : a[v].busy = true)
    (hleast : ∀ j : Channel, j ≠ v → a[j].busy = true → Arena.precedes a v j) {x : Allocation}
    (hx : x ∈ Arena.live a)
    (hmin : ∀ y ∈ Arena.live a, y.isDualVoice = a[v].dual → y.keyLt x = false) : x.noteId = a[v].owner := by
  obtain ⟨-, y, hy, hid, hlowest, hdual⟩ := exists_live_of_least ha hbusy fun j hj hold => hleast j hj hold.1
  obtain ⟨⟨hxbusy, -⟩, -⟩ := lowest_of_live hx
  by_cases hxy : x.lowest = v
  · exact live_ext_of_lowest hx hy (hxy.trans hlowest.symm) ▸ hid
  · have hlt : y.keyLt x = true :=
      (keyLt_iff_precedes hy hx).mpr (hlowest.symm ▸ hleast x.lowest hxy hxbusy)
    exact absurd (hlt.symm.trans (hmin y hy hdual)) nofun

/-- Nine owners for nine channels make an arena well-shaped (10_state.md R27). -/
theorem wellShaped_of_distinct_owners {a : Arena} (h : ∀ i j : Channel, a[i].owner = a[j].owner → i = j) :
    Arena.wellShaped a := by
  intro c _
  have hlen : (Arena.owned a a[c].owner).length ≤ [c].length := length_owned_le_of_holds fun d hd => by
    rw [h d c hd.2]
    exact List.mem_singleton_self c
  rw [List.length_singleton] at hlen
  refine ⟨by omega, fun htwo => by omega, fun d hd => ?_⟩
  obtain rfl : d = c := h d c hd.2
  exact ⟨rfl, rfl⟩

end Sys2Proof.Machine
end

section
/-! ALLOC_CHANNEL (41_allocator.md R145 to R147, R170, R171). -/

namespace Sys2Proof.Machine

/-! ## allocSingle -/

theorem allocSingle_of_single {a : Arena} {id : NoteId} {x : Allocation} (hx : Arena.alloc a id = some x)
    (hsingle : x.isDualVoice = false) (now : Stamp) : allocSingle a id now = ⟨.ok, x.channels, [], a, []⟩ := by
  simp [allocSingle, hx, hsingle]

/-- Without a single-voice allocation to keep, the identity's channels are released and the lowest free one is taken
(41_allocator.md R146 steps 2 to 4). -/
theorem allocSingle_of_not_single {a : Arena} {id : NoteId}
    (h : ∀ x, Arena.alloc a id = some x → x.isDualVoice = true) (now : Stamp) :
    allocSingle a id now = takeLowest (Arena.release a id) id now := by
  unfold allocSingle
  split
  case h_1 hnone => rw [release_of_idle ((alloc_eq_none a id).mp hnone)]
  case h_2 x hx => rw [if_pos (h x hx)]

/-- What `allocSingle` can do: keep a single-voice allocation as it is, or take the lowest free channel once the
identity's own are released (41_allocator.md R146). -/
theorem allocSingle_cases (a : Arena) (id : NoteId) (now : Stamp) :
    (∃ x, Arena.alloc a id = some x ∧ allocSingle a id now = ⟨.ok, x.channels, [], a, []⟩) ∨
      allocSingle a id now = takeLowest (Arena.release a id) id now := by
  by_cases h : ∃ x, Arena.alloc a id = some x ∧ x.isDualVoice = false
  · obtain ⟨x, hx, hsingle⟩ := h
    exact .inl ⟨x, hx, allocSingle_of_single hx hsingle now⟩
  · refine .inr (allocSingle_of_not_single (fun x hx => ?_) now)
    exact Bool.eq_true_of_not_eq_false fun hsingle => h ⟨x, hx, hsingle⟩

/-- Settles O22: a free channel is there or one eviction makes one. -/
theorem singlePathNeverFails : Obligations.SinglePathNeverFails := by
  intro a id now
  rcases allocSingle_cases a id now with ⟨x, -, e⟩ | e
  · simp [e]
  · rcases takeLowest_cases (Arena.release a id) id now with ⟨c, rest, -, e'⟩ | ⟨v, c, rest, -, -, -, e'⟩ <;>
      simp [e, e']

theorem takeLowest_of_free {a : Arena} {c : Channel} (hfree : a[c].busy = false)
    (hlow : ∀ j < c, a[j].busy = true) (id : NoteId) (now : Stamp) :
    takeLowest a id now = ⟨.ok, [c], [], Arena.grant a id [c] now false, []⟩ := by
  obtain ⟨rest, h⟩ := eq_cons_of_lowest (freeSet_sorted a) ((mem_freeSet a c).mpr hfree) fun j hj hmem =>
    Bool.false_ne_true (((mem_freeSet a j).mp hmem).symm.trans (hlow j hj))
  simp [takeLowest, h]

/-- With no channel free, the allocation that holds the least (stamp, channel) is evicted and that channel taken
(41_allocator.md R146 step 3). -/
theorem takeLowest_of_full {a : Arena} (ha : Arena.wellShaped a) (hfull : ∀ j : Channel, a[j].busy = true) {v : Channel}
    (hleast : ∀ j : Channel, j ≠ v → Arena.precedes a v j) (id : NoteId) (now : Stamp) :
    takeLowest a id now =
      ⟨.ok, [v], [a[v].owner], Arena.grant (Arena.release a a[v].owner) id [v] now false, []⟩ := by
  rcases takeLowest_cases a id now with ⟨c, rest, hfree, -⟩ | ⟨x, c, rest, -, holdest, hfree, e⟩
  · have hc := (mem_freeSet a c).mp (hfree ▸ List.mem_cons_self)
    rw [hfull c] at hc
    cases hc
  · obtain ⟨hx, -, hmin⟩ := oldest_eq_some a _ x holdest
    have hid : x.noteId = a[v].owner :=
      noteId_of_least ha (hfull v) (fun j hj _ => hleast j hj) hx fun y hy _ => hmin y hy rfl
    obtain ⟨hlow, -⟩ := exists_live_of_least ha (hfull v) fun j hj _ => hleast j hj
    have hmem : ∀ j : Channel, j ∈ Arena.freeSet (Arena.release a a[v].owner) ↔ Arena.holds a a[v].owner j :=
      fun j => by rw [mem_freeSet, release_busy_eq_false_iff, hfull j, Bool.true_eq_false, false_or]
    rw [hid] at hfree e
    obtain ⟨rest', hfree'⟩ := eq_cons_of_lowest (freeSet_sorted _) ((hmem v).mpr ⟨hfull v, rfl⟩)
      fun j hj hj' => hlow j hj ((hmem j).mp hj')
    obtain ⟨rfl, -⟩ := List.cons.inj (hfree.symm.trans hfree')
    exact e

/-! ## The command -/

/-- ALLOC_CHANNEL commits what `allocSingle` answers, which raises no diagnostic (41_allocator.md R145, R147). -/
theorem exec_allocChannel (s : State) (id : NoteId) (now : Stamp) :
    exec (.allocChannel id now) s = .next { s with
      slots := (allocSingle s.slots id now).slots
      resp := s.resp ++ [(allocSingle s.slots id now).response]
      port := s.port.tail } := by
  obtain ⟨hok, -⟩ := singlePathNeverFails s.slots id now
  rw [exec_eq_runPlan (i := .allocChannel id now) rfl, runPlan_silent _ _ rfl]
  simp [State.commit, planAllocChannel, Plan.takeGrant, Plan.reply, Plan.start, singleDiags, hok, Granted.response]

/-- The effect of ALLOC_CHANNEL by an identity with no single-voice allocation, when `c` is the lowest channel that is free
or its own (41_allocator.md R146 steps 2 and 4). -/
theorem exec_allocChannel_of_free {s : State} {id : NoteId} {c : Channel}
    (hdual : ∀ x, Arena.alloc s.slots id = some x → x.isDualVoice = true)
    (hfree : s.slots[c].busy = false ∨ Arena.holds s.slots id c)
    (hlow : ∀ j < c, s.slots[j].busy = true ∧ ¬Arena.holds s.slots id j) (now : Stamp) :
    exec (.allocChannel id now) s = .next { s with
      slots := Arena.grant (Arena.release s.slots id) id [c] now false
      resp := s.resp ++ [[0x00, 1, BitVec.ofNat 8 c, 0xFF, 0, 0, 0, 0, 0, 0, 0]]
      port := s.port.tail } := by
  rw [exec_allocChannel, allocSingle_of_not_single hdual,
    takeLowest_of_free ((release_busy_eq_false_iff s.slots id c).mpr hfree) fun j hj => ?_]
  · rfl
  · obtain ⟨hbusy, hold⟩ := hlow j hj
    rw [release_getElem_of_holds, if_neg hold, hbusy]

theorem grant_singleton (a : Arena) (id : NoteId) (c : Channel) (now : Stamp) (dual : Bool) :
    Arena.grant a id [c] now dual = a.set c { busy := true, owner := id, stamp := now, dual := dual } := rfl

/-- Settles O17: the release of an idle identity changes nothing. -/
theorem allocChannelTakesTheLowestFree : Obligations.AllocChannelTakesTheLowestFree := by
  intro s id now c hidle hfree hlow
  have hnone : Arena.alloc s.slots id = none := (alloc_eq_none _ _).mpr hidle
  rw [exec_allocChannel_of_free (fun x hx => absurd (hnone.symm.trans hx) nofun) (.inl hfree)
    (fun j hj => ⟨hlow j hj, hidle j⟩), release_of_idle hidle, grant_singleton]

/-- Settles O18: step 1 of `allocSingle` answers the allocation it finds. -/
theorem allocChannelIsIdempotent : Obligations.AllocChannelIsIdempotent := by
  intro s id now x hx hsingle
  rw [exec_allocChannel, allocSingle_of_single hx hsingle]
  rfl

/-- Settles O19: the released channels count as free, and the allocation's flag is that of its lowest channel. -/
theorem allocChannelReplacesADualAllocation : Obligations.AllocChannelReplacesADualAllocation := by
  intro s id now c d hd hdual hlowest hfree hlow
  have hflag : ∀ x, Arena.alloc s.slots id = some x → x.isDualVoice = true := fun x hx => by
    obtain rfl := Option.some.inj ((alloc_of_lowest hd hlowest).symm.trans hx)
    exact hdual
  rw [exec_allocChannel_of_free hflag hfree hlow]
  congr 2
  refine eq_ofFn fun j => ?_
  simp only [grant_getElem, release_getElem_of_holds, List.mem_singleton]

/-- Settles O21: the channel that precedes all others belongs to the victim and is its lowest. -/
theorem allocChannelEvictsAnyVoiceType : Obligations.AllocChannelEvictsAnyVoiceType := by
  intro s id now v hshape hfull hleast
  have hidle : Arena.idle s.slots id := fun c hc => (hfull c).2 hc.2
  have hnone : Arena.alloc s.slots id = none := (alloc_eq_none _ _).mpr hidle
  rw [exec_allocChannel, allocSingle_of_not_single fun x hx => absurd (hnone.symm.trans hx) nofun,
    release_of_idle hidle, takeLowest_of_full hshape (fun j => (hfull j).1) hleast]
  have hslots : Arena.grant (Arena.release s.slots s.slots[v].owner) id [v] now false = Vector.ofFn fun j =>
      if j = v then { busy := true, owner := id, stamp := now, dual := false }
      else if s.slots[j].owner = s.slots[v].owner then Slot.free else s.slots[j] := by
    refine eq_ofFn fun j => ?_
    have hholds : Arena.holds s.slots s.slots[v].owner j ↔ s.slots[j].owner = s.slots[v].owner :=
      and_iff_right (hfull j).1
    rw [grant_getElem, release_getElem_of_holds]
    simp only [hholds, List.mem_singleton]
  rw [hslots]
  rfl

/-- Settles O20: nine owners make the arena well-shaped, and no second channel is the victim's. -/
theorem allocChannelEvictsTheLeastRecent : Obligations.AllocChannelEvictsTheLeastRecent := by
  intro s id now v hfull howners hleast
  rw [allocChannelEvictsAnyVoiceType s id now v (wellShaped_of_distinct_owners howners)
    (fun j => ⟨(hfull j).1, (hfull j).2.2⟩) hleast]
  congr 2
  refine (eq_ofFn fun j => ?_).symm
  have howner : s.slots[j].owner = s.slots[v].owner ↔ j = v := ⟨howners j v, fun h => h ▸ rfl⟩
  rw [set_getElem]
  by_cases h : j = v
  · rw [if_pos h, if_pos h.symm]
  · rw [if_neg h, if_neg (Ne.symm h), if_neg (mt howner.mp h)]

/-! ## The victim's NOTE_OFF -/

/-- An identity that `allocSingle` evicts holds nothing afterwards (41_allocator.md R143). -/
theorem idle_of_mem_evicted {a : Arena} {id v : NoteId} {now : Stamp} (hne : id ≠ v)
    (hv : v ∈ (allocSingle a id now).evicted) : Arena.idle (allocSingle a id now).slots v := by
  rcases allocSingle_cases a id now with ⟨x, -, e⟩ | e <;> rw [e] at hv ⊢
  · cases hv
  · rcases takeLowest_cases (Arena.release a id) id now with ⟨c, rest, -, e'⟩ | ⟨x, c, rest, -, -, -, e'⟩ <;>
      rw [e'] at hv ⊢
    · cases hv
    · obtain rfl : v = x.noteId := List.mem_singleton.mp hv
      rintro j ⟨hbusy, howner⟩
      rw [grant_getElem] at hbusy howner
      split at howner
      · exact hne howner
      · next hj =>
        rw [if_neg hj] at hbusy
        exact idle_release_self _ _ j ⟨hbusy, howner⟩

/-- NOTE_OFF by an identity that holds nothing (42_engine.md R199). -/
theorem exec_noteOff_of_idle {t : State} {track : TrackId} {note : Byte} (hnote : note.toNat ≤ 127)
    (hidle : Arena.idle t.slots ⟨track, note⟩) :
    exec (.noteOff track note) t = .next { t with
      resp := t.resp ++ [[0x00, 0, 0xFF, 0xFF]], port := t.port.tail } := by
  have howned : Arena.owned t.slots ⟨track, note⟩ = [] :=
    List.eq_nil_iff_forall_not_mem.mpr fun c hc => hidle c ((mem_owned _ _ c).mp hc)
  have hplan : planNoteOff track note t = (Plan.start t).reply [0x00, 0, 0xFF, 0xFF] := by
    rw [planNoteOff, if_neg (not_lt.mpr hnote)]
    simp only [howned]
    rw [show (Plan.start t).keyOffAll t.cfg.regmap [] = Plan.start t from rfl, start_slots, release_of_idle hidle]
    rfl
  rw [exec_eq_runPlan (i := .noteOff track note) rfl, hplan, runPlan_silent _ _ rfl]
  simp [State.commit, Plan.start, Plan.reply]

/-- Settles O41: the evicted identity is idle in the arena ALLOC_CHANNEL left. -/
theorem stolenNoteOffIsANoOp : Obligations.StolenNoteOffIsANoOp := by
  intro s t id track note now hnote hne hexec hevicted
  refine exec_noteOff_of_idle hnote ?_
  rw [exec_allocChannel] at hexec
  injection hexec with hexec
  subst hexec
  exact idle_of_mem_evicted hne hevicted

end Sys2Proof.Machine
end

section
/-! RELEASE_NOTE, GET_ALLOCATION and RESET_ALLOCATOR (41_allocator.md R158 to R167). -/

namespace Sys2Proof.Machine

/-- Settles O30: a release frees the channels held and its list is theirs, ascending. -/
theorem releaseNoteFreesItsChannels : Obligations.ReleaseNoteFreesItsChannels := by
  intro s id
  rw [← owned_eq_filter, ← eq_ofFn (release_getElem_of_holds s.slots id), exec_eq_runPlan (i := .releaseNote id) rfl,
    runPlan_silent _ _ rfl]
  simp [State.commit, planReleaseNote, Plan.reply, Plan.start, statusOk]

/-- GET_ALLOCATION reports the identity's allocation (41_allocator.md R163). -/
theorem exec_getAllocation (s : State) (id : NoteId) :
    exec (.getAllocation id) s = .next { s with
      resp := s.resp ++ [0x00 :: allocationPayload (Arena.alloc s.slots id)], port := s.port.tail } := by
  rw [exec_eq_runPlan (i := .getAllocation id) rfl, runPlan_silent _ _ rfl]
  simp [State.commit, planGetAllocation, Plan.reply, Plan.start, statusOk]

/-- Settles O32: an idle identity has no allocation, and another's is that of its lowest channel. -/
theorem getAllocationOnlyReports : Obligations.GetAllocationOnlyReports := by
  intro s id
  rw [exec_getAllocation]
  refine ⟨fun hidle => ?_, fun c hc hlow => ?_⟩
  · rw [(alloc_eq_none s.slots id).mpr hidle]
    rfl
  · rw [alloc_of_lowest hc hlow, ← owned_eq_filter]
    rfl

/-- Settles O33: clearing frees every slot. -/
theorem resetAllocatorFreesEverySlot : Obligations.ResetAllocatorFreesEverySlot := by
  intro s
  have hclear : Arena.clear s.slots = Vector.replicate 9 Slot.free :=
    arena_ext fun c => (clear_getElem s.slots c).trans (Vector.getElem_replicate c.isLt).symm
  rw [← hclear, exec_eq_runPlan (i := .resetAllocator) rfl, runPlan_silent _ _ rfl]
  simp [State.commit, planResetAllocator, Plan.reply, Plan.start, statusOk]

end Sys2Proof.Machine
end

section
/-! What a command's plan depends on (41_allocator.md R168; 42_engine.md R209): the parameters, the arena, its operands and,
for its writes alone, the key shadow. -/

namespace Sys2Proof.Machine

/-- The part of the state that a command reads; all else as after reset. -/
def State.inputs (s : State) : State :=
  { State.resetWith s.cfg with slots := s.slots, keyshadow := s.keyshadow }

theorem plan_inputs (i : Instr) (s : State) : Instr.plan i s.inputs = Instr.plan i s := by
  cases i <;> rfl

/-- Two plans that agree on the arena, the diagnostics and the response; the writes may differ. -/
structure Plan.SameEffect (p q : Plan) : Prop where
  slots : p.slots = q.slots
  diags : p.diags = q.diags
  resp : p.resp = q.resp

theorem start_sameEffect (s : State) (k : KeyShadow) :
    Plan.SameEffect (Plan.start s) (Plan.start { s with keyshadow := k }) := ⟨rfl, rfl, rfl⟩

theorem Plan.SameEffect.takeGrant {p q : Plan} (h : Plan.SameEffect p q) (g : Granted) :
    Plan.SameEffect (p.takeGrant g) (q.takeGrant g) := ⟨rfl, congrArg (· ++ g.diags) h.diags, h.resp⟩

theorem Plan.SameEffect.reply {p q : Plan} (h : Plan.SameEffect p q) (r : Response) :
    Plan.SameEffect (p.reply r) (q.reply r) := ⟨h.slots, h.diags, rfl⟩

theorem soundVoices_sameEffect {p q : Plan} (h : Plan.SameEffect p q) (cfg : Config) (note : Byte)
    (vs : List (Channel × Voice)) : Plan.SameEffect (p.soundVoices cfg note vs) (q.soundVoices cfg note vs) := by
  obtain ⟨hslots, hdiags, hresp⟩ := h
  obtain ⟨hpslots, hpresp, -, hpdiags⟩ := keyOnVoices_frame cfg note vs (p.programVoices cfg.regmap vs)
  obtain ⟨hqslots, hqresp, -, hqdiags⟩ := keyOnVoices_frame cfg note vs (q.programVoices cfg.regmap vs)
  exact ⟨hpslots.trans (hslots.trans hqslots.symm),
    hpdiags.trans ((congrArg (· ++ _) hdiags).trans hqdiags.symm), hpresp.trans (hresp.trans hqresp.symm)⟩

theorem keyOffAll_sameEffect {p q : Plan} (h : Plan.SameEffect p q) (m : RegMap) {cs : List Channel} (hd : cs.Nodup) :
    Plan.SameEffect (p.keyOffAll m cs) (q.keyOffAll m cs) := by
  obtain ⟨hslots, hdiags, hresp⟩ := h
  obtain ⟨hpslots, hpdiags, hpresp, -⟩ := keyOffAll_eq m cs hd p
  obtain ⟨hqslots, hqdiags, hqresp, -⟩ := keyOffAll_eq m cs hd q
  exact ⟨hpslots.trans (hslots.trans hqslots.symm), hpdiags.trans (hdiags.trans hqdiags.symm),
    hpresp.trans (hresp.trans hqresp.symm)⟩

/-- No command's arena, diagnostics or response depend on the key shadow. -/
theorem plan_sameEffect_of_shadow {i : Instr} {s : State} {k : KeyShadow} {p q : Plan} (hp : Instr.plan i s = some p)
    (hq : Instr.plan i { s with keyshadow := k } = some q) : Plan.SameEffect p q := by
  cases i
  case render => cases hp
  all_goals injection hp with hp; injection hq with hq; subst hp; subst hq
  case noteOn track note velocity now patch =>
    unfold planNoteOn
    split
    · exact ⟨rfl, rfl, rfl⟩
    · have hgrant : noteOnGrant { s with keyshadow := k } ⟨track, note⟩ now patch =
        noteOnGrant s ⟨track, note⟩ now patch := rfl
      rw [hgrant]
      dsimp only
      split
      case h_1 => exact ⟨rfl, rfl, rfl⟩
      all_goals exact (soundVoices_sameEffect ((start_sameEffect s k).takeGrant _) s.cfg note _).reply _
  case noteOff track note =>
    unfold planNoteOff
    split
    · exact ⟨rfl, rfl, rfl⟩
    · obtain ⟨hslots, hdiags, -⟩ := keyOffAll_sameEffect (start_sameEffect s k) s.cfg.regmap
        (owned_nodup s.slots { track := track, note := note })
      exact ⟨congrArg (Arena.release · _) hslots, hdiags, rfl⟩
  case allNotesOff =>
    obtain ⟨hslots, hdiags, -⟩ := keyOffAll_sameEffect (start_sameEffect s k) s.cfg.regmap channels_nodup
    exact ⟨congrArg (releaseAll · _) hslots, hdiags, rfl⟩
  case loadPatch ch patch =>
    unfold planLoadPatch
    split <;> exact ⟨rfl, rfl, rfl⟩
  all_goals exact ⟨rfl, rfl, rfl⟩

/-- A command's plans in two states with the same parameters and arena have the same effect, and are the same if the key
shadows are. -/
theorem plan_of_same_inputs {i : Instr} {s u : State} (hcfg : s.cfg = u.cfg) (hslots : s.slots = u.slots) {p q : Plan}
    (hp : Instr.plan i s = some p) (hq : Instr.plan i u = some q) :
    Plan.SameEffect p q ∧ (s.keyshadow = u.keyshadow → p = q) := by
  have hinputs : u.inputs = { s.inputs with keyshadow := u.keyshadow } := by
    rw [State.inputs, State.inputs, hcfg, hslots]
  rw [← plan_inputs] at hp hq
  refine ⟨plan_sameEffect_of_shadow hp (hinputs ▸ hq), fun hshadow => ?_⟩
  have heq : u.inputs = s.inputs := by
    rw [hinputs, ← hshadow]
    rfl
  exact Option.some.inj (hp.symm.trans (heq ▸ hq))

/-- Settles O53: with room for 26 writes both commands commit their plans. -/
theorem commandsIgnoreTheQueueAndTheLogs : Obligations.CommandsIgnoreTheQueueAndTheLogs := by
  intro i s u hi hcfg hslots hs hu
  obtain ⟨p, hp, hexecs⟩ := exec_of_room (i := i) (s := s) hi (by have := writeCount_le i s; omega)
  obtain ⟨q, hq, hexecu⟩ := exec_of_room (i := i) (s := u) hi (by have := writeCount_le i u; omega)
  obtain ⟨⟨hpslots, hpdiags, hpresp⟩, hpq⟩ := plan_of_same_inputs hcfg hslots hp hq
  refine ⟨s.commit p, u.commit q, p.resp, p.diags, hexecs, hexecu, hpslots, rfl, ?_, rfl, ?_, fun hshadow => ?_⟩
  · rw [commit_resp, hpresp]
  · rw [commit_diag, hpdiags]
  · obtain rfl := hpq hshadow
    exact ⟨rfl, p.pending, rfl, rfl⟩

end Sys2Proof.Machine
end

section
/-! The stealing loops of ALLOC_DUAL (41_allocator.md R148, R153, R155 to R157): which identities they evict, in which order,
and when they stop. -/

namespace Sys2Proof.Machine

/-! ## Evictions one after another -/

/-- The identities of a list, evicted one after another, are each chosen by `Q` in the arena that the ones before it
leave. -/
def Arena.Evicts (Q : Arena → NoteId → Prop) : Arena → List NoteId → Prop
  | _, [] => True
  | a, v :: vs => Q a v ∧ Arena.Evicts Q (Arena.release a v) vs

theorem evicts_cons (Q : Arena → NoteId → Prop) (a : Arena) (v : NoteId) (vs : List NoteId) :
    Arena.Evicts Q a (v :: vs) ↔ Q a v ∧ Arena.Evicts Q (Arena.release a v) vs := Iff.rfl

theorem evicts_append (Q : Arena → NoteId → Prop) (a : Arena) (us vs : List NoteId) :
    Arena.Evicts Q a (us ++ vs) ↔ Arena.Evicts Q a us ∧ Arena.Evicts Q (Arena.releaseIds a us) vs := by
  induction us generalizing a with
  | nil => exact (and_iff_right trivial).symm
  | cons u us ih => rw [List.cons_append, evicts_cons, evicts_cons, ih, and_assoc, releaseIds_cons]

/-- Each place of the list, read with what stands before it. -/
theorem Arena.Evicts.at_split {Q : Arena → NoteId → Prop} {a : Arena} {pre post : List NoteId} {v : NoteId}
    (h : Arena.Evicts Q a (pre ++ v :: post)) : Q (Arena.releaseIds a pre) v := by
  obtain ⟨-, hv, -⟩ := (evicts_append Q a pre (v :: post)).mp h
  exact hv

/-- The choice `Q` may be weakened to `R` where a property that every release keeps holds. -/
theorem Arena.Evicts.imp {Q R : Arena → NoteId → Prop} {I : Arena → Prop}
    (hrelease : ∀ a v, I a → I (Arena.release a v)) (hQ : ∀ a v, I a → Q a v → R a v) {a : Arena} {vs : List NoteId}
    (hI : I a) (h : Arena.Evicts Q a vs) : Arena.Evicts R a vs := by
  induction vs generalizing a with
  | nil => trivial
  | cons v vs ih =>
    obtain ⟨hv, hvs⟩ := h
    exact ⟨hQ a v hI hv, ih (hrelease a v hI) hvs⟩

/-! ## One loop -/

/-- What a stealing loop evicts next: the oldest allocation that satisfies `P`, while fewer than two channels are free
(41_allocator.md R153). -/
def Arena.oldestVictim (P : Allocation → Bool) (a : Arena) (v : NoteId) : Prop :=
  (Arena.freeSet a).length < 2 ∧ ∃ x, Arena.oldest a P = some x ∧ x.noteId = v

theorem steal_of_room (P : Allocation → Bool) (n : Nat) {a : Arena} (h : 2 ≤ (Arena.freeSet a).length)
    (evicted : List NoteId) : steal P n (a, evicted) = (a, evicted) := by
  cases n with
  | zero => rfl
  | succ n => rw [steal, if_pos h]

/-- A stealing loop releases what it reports. -/
theorem steal_eq (P : Allocation → Bool) (n : Nat) (a : Arena) (evicted : List NoteId) :
    ∃ vs, steal P n (a, evicted) = (Arena.releaseIds a vs, evicted ++ vs) ∧
      Arena.Evicts (Arena.oldestVictim P) a vs := by
  induction n generalizing a evicted with
  | zero => exact ⟨[], by rw [List.append_nil]; rfl, trivial⟩
  | succ n ih =>
    have hstop : ∃ vs, (a, evicted) = (Arena.releaseIds a vs, evicted ++ vs) ∧
        Arena.Evicts (Arena.oldestVictim P) a vs := ⟨[], by rw [List.append_nil]; rfl, trivial⟩
    rw [steal]
    split
    · exact hstop
    · next hroom =>
      split
      case h_1 => exact hstop
      case h_2 x hx =>
        obtain ⟨vs, heq, hvs⟩ := ih (Arena.release a x.noteId) (evicted ++ [x.noteId])
        exact ⟨x.noteId :: vs, by rw [heq, releaseIds_cons, List.append_assoc, List.singleton_append],
          ⟨not_le.mp hroom, x, hx, rfl⟩, hvs⟩

/-- Nine turns are enough for a stealing loop to end (41_allocator.md R156). -/
theorem steal_ends (P : Allocation → Bool) (a : Arena) (evicted : List NoteId) :
    2 ≤ (Arena.freeSet (steal P 9 (a, evicted)).1).length ∨ ∀ x ∈ Arena.live (steal P 9 (a, evicted)).1, P x = false :=
  (steal_spec P 9 a evicted (by omega)).left.imp_right (oldest_eq_none _ P).mp

/-! ## Both loops -/

/-- Every live allocation is dual-voice. -/
def Arena.allDual (a : Arena) : Prop := ∀ x ∈ Arena.live a, x.isDualVoice = true

theorem allDual_releaseIds {a : Arena} (h : Arena.allDual a) (ids : List NoteId) :
    Arena.allDual (Arena.releaseIds a ids) := fun x hx => h x ((mem_live_releaseIds a ids x).mp hx).1

/-- What ALLOC_DUAL evicts next, while fewer than two channels are free: the single-voice allocation with the least key,
or, under ANY_TYPE with no single-voice allocation left, the allocation with the least key (41_allocator.md R148, R157). -/
def Arena.dualVictim (policy : StealPolicy) (a : Arena) (v : NoteId) : Prop :=
  (Arena.freeSet a).length < 2 ∧ ∃ x ∈ Arena.live a, x.noteId = v ∧
    (x.isDualVoice = true → policy = .anyType ∧ Arena.allDual a) ∧
    ∀ y ∈ Arena.live a, y.isDualVoice = x.isDualVoice → y.keyLt x = false

/-- When ALLOC_DUAL evicts no more: two channels are free, or nothing is left, or only dual-voice allocations under
SINGLE_ONLY (41_allocator.md R153, R155). -/
def Arena.stealingEnds (policy : StealPolicy) (a : Arena) : Prop :=
  2 ≤ (Arena.freeSet a).length ∨ ∀ y ∈ Arena.live a, policy = .singleOnly ∧ y.isDualVoice = true

theorem dualVictim_of_oldest_single {policy : StealPolicy} {a : Arena} {v : NoteId}
    (h : Arena.oldestVictim (fun x => !x.isDualVoice) a v) : Arena.dualVictim policy a v := by
  obtain ⟨hroom, x, hx, hid⟩ := h
  obtain ⟨hlive, hsingle, hmin⟩ := oldest_eq_some a _ x hx
  rw [Bool.not_eq_true'] at hsingle
  refine ⟨hroom, x, hlive, hid, fun hdual => ?_, fun y hy hsame => hmin y hy ?_⟩
  · rw [hsingle] at hdual
    cases hdual
  · rw [hsame, hsingle, Bool.not_false]

theorem dualVictim_of_oldest {a : Arena} {v : NoteId} (hdual : Arena.allDual a)
    (h : Arena.oldestVictim (fun _ => true) a v) : Arena.dualVictim .anyType a v := by
  obtain ⟨hroom, x, hx, hid⟩ := h
  obtain ⟨hlive, -, hmin⟩ := oldest_eq_some a _ x hx
  exact ⟨hroom, x, hlive, hid, fun _ => ⟨rfl, hdual⟩, fun y hy _ => hmin y hy rfl⟩

/-- The second loop turns to dual-voice allocations only once the first has left no other (41_allocator.md R153, R157). -/
theorem stealForDual_eq (policy : StealPolicy) (a : Arena) :
    ∃ vs, stealForDual policy a = (Arena.releaseIds a vs, vs) ∧ Arena.Evicts (Arena.dualVictim policy) a vs ∧
      Arena.stealingEnds policy (Arena.releaseIds a vs) := by
  obtain ⟨us, hfirst, hus⟩ := steal_eq (fun x => !x.isDualVoice) 9 a []
  have hus' : Arena.Evicts (Arena.dualVictim policy) a us :=
    hus.imp (I := fun _ => True) (fun _ _ _ => trivial) (fun _ _ _ => dualVictim_of_oldest_single) trivial
  have hends := steal_ends (fun x => !x.isDualVoice) a []
  rw [List.nil_append] at hfirst
  rw [hfirst] at hends
  simp only [Bool.not_eq_false'] at hends
  cases policy with
  | singleOnly => exact ⟨us, hfirst, hus', hends.imp_right fun hdual y hy => ⟨rfl, hdual y hy⟩⟩
  | anyType =>
    rw [stealForDual, hfirst]
    rcases hends with hroom | hdual
    · exact ⟨us, steal_of_room _ 9 hroom us, hus', .inl hroom⟩
    · obtain ⟨vs, hsecond, hvs⟩ := steal_eq (fun _ => true) 9 (Arena.releaseIds a us) us
      have hends' := steal_ends (fun _ => true) (Arena.releaseIds a us) us
      rw [hsecond] at hends' ⊢
      rw [← releaseIds_append] at hends' ⊢
      refine ⟨us ++ vs, rfl, (evicts_append _ _ _ _).mpr ⟨hus', ?_⟩, ?_⟩
      · exact hvs.imp (fun b v hb => allDual_releaseIds hb [v]) (fun b v => dualVictim_of_oldest) hdual
      · exact hends'.imp_right fun hnone y hy => absurd (hnone y hy) Bool.noConfusion

/-- Every eviction frees a channel, so that two are enough (41_allocator.md R156). -/
theorem length_le_two_of_evicts {policy : StealPolicy} {a : Arena} {vs : List NoteId}
    (h : Arena.Evicts (Arena.dualVictim policy) a vs) : vs.length ≤ 2 := by
  match vs, h with
  | [], _ => exact Nat.zero_le 2
  | [_], _ => exact one_le_two
  | [_, _], _ => exact le_rfl
  | v :: w :: u :: rest, ⟨⟨_, x, hx, hxid, _⟩, ⟨_, y, hy, hyid, _⟩, ⟨hroom, _⟩, _⟩ =>
    have hfirst := evict_length a x hx
    have hsecond := evict_length (Arena.release a v) y hy
    rw [hxid] at hfirst
    rw [hyid] at hsecond
    omega

/-! ## allocDual -/

theorem grantDual_evicted (a : Arena) (evicted : List NoteId) (id : NoteId) (now : Stamp) :
    (grantDual a evicted id now).evicted = evicted := by
  unfold grantDual
  split <;> rfl

/-- `allocDual` grants from the arena in which the requester and then the evicted have been released
(41_allocator.md R153). -/
theorem allocDual_eq (policy : StealPolicy) (a : Arena) (id : NoteId) (now : Stamp) :
    let evicted := (allocDual policy a id now).evicted
    allocDual policy a id now = grantDual (Arena.releaseIds a (id :: evicted)) evicted id now ∧
      Arena.Evicts (Arena.dualVictim policy) (Arena.release a id) evicted ∧
      Arena.stealingEnds policy (Arena.releaseIds a (id :: evicted)) := by
  obtain ⟨vs, heq, hvs, hends⟩ := stealForDual_eq policy (Arena.release a id)
  have hgrant : allocDual policy a id now = grantDual (Arena.releaseIds a (id :: vs)) vs id now := by
    rw [allocDual, heq]
    rfl
  have hevicted : (allocDual policy a id now).evicted = vs := by rw [hgrant, grantDual_evicted]
  rw [hevicted]
  exact ⟨hgrant, hvs, hends⟩

theorem mem_live_releaseIds_cons (a : Arena) (id : NoteId) (gone : List NoteId) (x : Allocation) :
    x ∈ Arena.live (Arena.releaseIds a (id :: gone)) ↔
      x ∈ (Arena.live a).filter fun x => x.noteId != id && !gone.contains x.noteId := by
  rw [mem_live_releaseIds, List.mem_filter]
  simp

/-- Settles O29: the evictions of `allocDual`, read at each place of its list. -/
theorem stealingIsBoundedAndProtectsDualNotes : Obligations.StealingIsBoundedAndProtectsDualNotes := by
  intro policy a id now
  obtain ⟨-, hevicts, hends⟩ := allocDual_eq policy a id now
  have hfree : ∀ gone : List NoteId, (Arena.freeSet (Arena.releaseIds a (id :: gone))).length =
      (List.finRange 9).countP fun c => !a[c].busy || a[c].owner == id || gone.contains a[c].owner := fun gone => by
    rw [length_freeSet_releaseIds]
    simp only [List.contains_cons, Bool.or_assoc]
  dsimp only
  refine ⟨length_le_two_of_evicts hevicts, fun pre v post hsplit => ?_, ?_⟩
  · rw [hsplit] at hevicts
    obtain ⟨hroom, x, hx, hid, hdual, hmin⟩ := hevicts.at_split
    rw [← releaseIds_cons] at hroom hx hdual hmin
    rw [← hfree]
    refine ⟨hroom, x, (mem_live_releaseIds_cons a id pre x).mp hx, hid, fun h => ?_, fun y hy hsame hne => ?_⟩
    · obtain ⟨hpolicy, hall⟩ := hdual h
      exact ⟨hpolicy, fun y hy => hall y ((mem_live_releaseIds_cons a id pre y).mpr hy)⟩
    · have hy' := (mem_live_releaseIds_cons a id pre y).mpr hy
      exact (keyLt_iff x y).mp (keyLt_of_not_keyLt hx hy' hne (hmin y hy' hsame))
  · rw [← hfree]
    exact hends.imp_right fun h y hy => h y ((mem_live_releaseIds_cons a id _ y).mpr hy)

end Sys2Proof.Machine
end

section
/-! The pair of channels that ALLOC_DUAL grants (41_allocator.md R149). -/

namespace Sys2Proof.Machine

/-! ## The rule -/

theorem isPairOf_congr {F G : Channel → Prop} (h : ∀ c, F c ↔ G c) {c0 c1 : Channel} :
    isPairOf F c0 c1 ↔ isPairOf G c0 c1 := by
  rw [funext fun c => propext (h c)]

/-- The rule names one pair. -/
theorem isPairOf_unique {F : Channel → Prop} {c0 c1 d0 d1 : Channel} (hc : isPairOf F c0 c1) (hd : isPairOf F d0 d1) :
    c0 = d0 ∧ c1 = d1 := by
  obtain ⟨hc0, hc1, hclt, hc⟩ := hc
  obtain ⟨hd0, hd1, hdlt, hd⟩ := hd
  rcases hc with ⟨hcnext, hcleast⟩ | ⟨hcnone, hcleast⟩ <;> rcases hd with ⟨hdnext, hdleast⟩ | ⟨hdnone, hdleast⟩
  · have h0 : c0 = d0 := le_antisymm (hcleast d0 d1 hd0 hd1 hdnext) (hdleast c0 c1 hc0 hc1 hcnext)
    exact ⟨h0, Fin.ext (by rw [hcnext, hdnext, h0])⟩
  · exact absurd hcnext (hdnone c0 c1 hc0 hc1)
  · exact absurd hdnext (hcnone d0 d1 hd0 hd1)
  · have hfirst : c0 = d0 := by
      rcases hcleast d0 hd0 with h | h
      · exact h.symm
      · rcases hdleast c0 hc0 with h' | h'
        · exact h'
        · exact absurd (hclt.trans_le (h.trans_lt (hdlt.trans_le h')).le) (lt_irrefl c0)
    subst hfirst
    exact ⟨rfl, le_antisymm ((hcleast d1 hd1).resolve_left hdlt.ne') ((hdleast c1 hc1).resolve_left hclt.ne')⟩

/-! ## pickPair -/

/-- The eight pairs of consecutive channels, ascending. -/
def channelPairs : List (List Channel) := [[0, 1], [1, 2], [2, 3], [3, 4], [4, 5], [5, 6], [6, 7], [7, 8]]

theorem mem_channelPairs {i j : Channel} (h : j.val = i.val + 1) : [i, j] ∈ channelPairs := by
  revert i j
  decide

theorem exists_of_mem_channelPairs {cs : List Channel} (h : cs ∈ channelPairs) :
    ∃ i j : Channel, cs = [i, j] ∧ j.val = i.val + 1 := by
  revert cs
  decide

theorem channelPairs_sorted : channelPairs.Pairwise fun cs ds => cs.headD 0 < ds.headD 0 := by decide

theorem all_contains_pair (f : List Channel) (i j : Channel) :
    ([i, j].all fun c => f.contains c) = true ↔ i ∈ f ∧ j ∈ f := by simp

theorem consecutivePair_eq_none {f : List Channel} (h : consecutivePair f = none) {i j : Channel} (hi : i ∈ f)
    (hj : j ∈ f) : j.val ≠ i.val + 1 := fun hnext =>
  List.find?_eq_none.mp h _ (mem_channelPairs hnext) ((all_contains_pair f i j).mpr ⟨hi, hj⟩)

/-- The pair found is in the list, and no consecutive pair in the list begins lower. -/
theorem consecutivePair_eq_some {f cs : List Channel} (h : consecutivePair f = some cs) :
    ∃ c0 c1 : Channel, cs = [c0, c1] ∧ c0 ∈ f ∧ c1 ∈ f ∧ c1.val = c0.val + 1 ∧
      ∀ i j : Channel, i ∈ f → j ∈ f → j.val = i.val + 1 → c0 ≤ i := by
  obtain ⟨hall, before, after, hsplit, hbefore⟩ := List.find?_eq_some_iff_append.mp h
  have hsplit : channelPairs = before ++ cs :: after := hsplit
  obtain ⟨c0, c1, rfl, hnext⟩ := exists_of_mem_channelPairs (hsplit ▸ List.mem_append_right before List.mem_cons_self)
  obtain ⟨hc0, hc1⟩ := (all_contains_pair f c0 c1).mp hall
  refine ⟨c0, c1, rfl, hc0, hc1, hnext, fun i j hi hj hij => ?_⟩
  have hmem : [i, j] ∈ before ++ [c0, c1] :: after := hsplit ▸ mem_channelPairs hij
  obtain ⟨-, hsorted, -⟩ := List.pairwise_append.mp (hsplit ▸ channelPairs_sorted)
  rcases List.mem_append.mp hmem with hb | hb
  · have hnot := hbefore _ hb
    rw [(all_contains_pair f i j).mpr ⟨hi, hj⟩] at hnot
    cases hnot
  · rcases List.mem_cons.mp hb with heq | hafter
    · exact (List.cons.inj heq).1.ge
    · exact (List.rel_of_pairwise_cons hsorted hafter).le

/-- `pickPair` answers the pair of the rule (41_allocator.md R149). -/
theorem pickPair_eq {f : List Channel} (hsorted : f.Pairwise (· < ·)) (hlen : 2 ≤ f.length) :
    ∃ c0 c1 : Channel, pickPair f = [c0, c1] ∧ isPairOf (· ∈ f) c0 c1 := by
  unfold pickPair
  cases hpair : consecutivePair f with
  | some cs =>
    obtain ⟨c0, c1, rfl, hc0, hc1, hnext, hleast⟩ := consecutivePair_eq_some hpair
    exact ⟨c0, c1, rfl, hc0, hc1, Fin.lt_def.mpr (by omega), .inl ⟨hnext, hleast⟩⟩
  | none =>
    match f, hlen with
    | c0 :: c1 :: rest, _ =>
      obtain ⟨h0, hrest⟩ := List.pairwise_cons.mp hsorted
      obtain ⟨h1, -⟩ := List.pairwise_cons.mp hrest
      refine ⟨c0, c1, rfl, List.mem_cons_self, List.mem_cons_of_mem _ List.mem_cons_self, h0 c1 List.mem_cons_self,
        .inr ⟨fun i j hi hj => consecutivePair_eq_none hpair hi hj, fun i hi => ?_⟩⟩
      rcases List.mem_cons.mp hi with rfl | hi
      · exact .inl rfl
      · rcases List.mem_cons.mp hi with rfl | hi
        · exact .inr le_rfl
        · exact .inr (h1 i hi).le

end Sys2Proof.Machine
end

section
/-! What ALLOC_DUAL grants, and what its grants and its failure leave (41_allocator.md R150 to R156). -/

namespace Sys2Proof.Machine

/-! ## The three ends of grantDual -/

/-- The outcome is decided by the number of free channels (41_allocator.md R153 steps 4 to 6). -/
theorem grantDual_status (a : Arena) (evicted : List NoteId) (id : NoteId) (now : Stamp) :
    (grantDual a evicted id now).status =
      if 2 ≤ (Arena.freeSet a).length then .ok else if (Arena.freeSet a).length = 1 then .degraded else .fail := by
  unfold grantDual
  split
  case h_1 h => simp [h]
  case h_2 c h => simp [h]
  case h_3 c0 c1 rest h => simp [h]

theorem freeSet_nodup (a : Arena) : (Arena.freeSet a).Nodup := channels_nodup.filter _

theorem two_le_length_freeSet {a : Arena} {c d : Channel} (hc : a[c].busy = false) (hd : a[d].busy = false)
    (hne : c ≠ d) : 2 ≤ (Arena.freeSet a).length := by
  have hsub : [c, d] ⊆ Arena.freeSet a := fun j hj => by
    rcases List.mem_pair.mp hj with rfl | rfl
    · exact (mem_freeSet a j).mpr hc
    · exact (mem_freeSet a j).mpr hd
  exact (List.subperm_of_subset (by simpa using hne) hsub).length_le

theorem length_freeSet_eq_one {a : Arena} {c : Channel} (h : ∀ j : Channel, a[j].busy = false ↔ j = c) :
    (Arena.freeSet a).length = 1 := by
  have hperm : (Arena.freeSet a).Perm [c] :=
    (List.perm_ext_iff_of_nodup (freeSet_nodup a) (List.nodup_singleton c)).mpr fun j => by
      rw [mem_freeSet, h, List.mem_singleton]
  exact hperm.length_eq

theorem grantDual_of_ok {a : Arena} {evicted : List NoteId} {id : NoteId} {now : Stamp}
    (h : (grantDual a evicted id now).status = .ok) :
    ∃ c0 c1 : Channel, isPairOf (fun c => a[c].busy = false) c0 c1 ∧
      grantDual a evicted id now = ⟨.ok, [c0, c1], evicted, Arena.grant a id [c0, c1] now true, []⟩ := by
  unfold grantDual at h ⊢
  split at h
  case h_1 => cases h
  case h_2 => cases h
  case h_3 d0 d1 rest hfree =>
    obtain ⟨c0, c1, heq, hpair⟩ := pickPair_eq (freeSet_sorted a) (by rw [hfree]; exact Nat.le_add_left 2 _)
    rw [hfree] at heq
    exact ⟨c0, c1, (isPairOf_congr (mem_freeSet a)).mp hpair, by rw [heq]⟩

theorem grantDual_of_degraded {a : Arena} {evicted : List NoteId} {id : NoteId} {now : Stamp}
    (h : (grantDual a evicted id now).status = .degraded) :
    ∃ c : Channel, (∀ j : Channel, a[j].busy = false ↔ j = c) ∧
      grantDual a evicted id now = ⟨.degraded, [c], evicted, Arena.grant a id [c] now true, [.degraded id c]⟩ := by
  unfold grantDual at h ⊢
  split at h
  case h_1 => cases h
  case h_2 c hfree => exact ⟨c, fun j => by rw [← mem_freeSet, hfree, List.mem_singleton], rfl⟩
  case h_3 => cases h

theorem grantDual_of_fail {a : Arena} {evicted : List NoteId} {id : NoteId} {now : Stamp}
    (h : (grantDual a evicted id now).status = .fail) :
    (∀ j : Channel, a[j].busy = true) ∧ grantDual a evicted id now = ⟨.fail, [], evicted, a, [.allocFailed id]⟩ := by
  unfold grantDual at h ⊢
  split at h
  case h_1 hfree =>
    refine ⟨fun j => Bool.eq_true_of_not_eq_false fun hj => ?_, rfl⟩
    exact List.not_mem_nil (hfree ▸ (mem_freeSet a j).mpr hj)
  case h_2 => cases h
  case h_3 => cases h

/-! ## The command -/

/-- ALLOC_DUAL commits what `allocDual` answers (41_allocator.md R152). -/
theorem exec_allocDual (s : State) (id : NoteId) (now : Stamp) :
    exec (.allocDual id now) s = .next { s with
      slots := (allocDual s.cfg.dualStealPolicy s.slots id now).slots
      diag := s.diag ++ (allocDual s.cfg.dualStealPolicy s.slots id now).diags
      resp := s.resp ++ [(allocDual s.cfg.dualStealPolicy s.slots id now).response]
      port := s.port.tail } := by
  rw [exec_eq_runPlan (i := .allocDual id now) rfl, runPlan_silent _ _ rfl]
  simp [State.commit, planAllocDual, Plan.takeGrant, Plan.reply, Plan.start]

/-- The second half of an AllocResult: the number of the evicted, and the first two (30_encoding.md R93). -/
def evictedField (evicted : List NoteId) : List Byte :=
  BitVec.ofNat 8 evicted.length ::
    match evicted with
    | [] => [0, 0, 0, 0, 0, 0]
    | [v] => bytesNoteId v ++ [0, 0, 0]
    | v :: w :: _ => bytesNoteId v ++ bytesNoteId w

theorem allocResult_eq (cs : List Channel) (evicted : List NoteId) :
    allocResult cs evicted = channelsPayload cs ++ evictedField evicted := by
  match evicted with
  | [] => rfl
  | [_] => rfl
  | _ :: _ :: _ => rfl

/-- The channels that ALLOC_DUAL may grant once it has evicted: the free, the requester's own and the evicted's
(41_allocator.md R153). -/
def Arena.grantable (a : Arena) (id : NoteId) (evicted : List NoteId) (c : Channel) : Prop :=
  a[c].busy = false ∨ (a[c].busy = true ∧ (a[c].owner = id ∨ a[c].owner ∈ evicted))

theorem releaseIds_busy_eq_false_iff_grantable (a : Arena) (id : NoteId) (evicted : List NoteId) (c : Channel) :
    (Arena.releaseIds a (id :: evicted))[c].busy = false ↔ Arena.grantable a id evicted c := by
  rw [releaseIds_busy_eq_false_iff, List.mem_cons, Arena.grantable]
  cases a[c].busy <;> simp

/-- A pair of grantable channels is granted, whatever was evicted for it (41_allocator.md R153 step 4). -/
theorem allocDual_of_pair {policy : StealPolicy} {a : Arena} {id : NoteId} {now : Stamp} {evicted : List NoteId}
    (hevicted : (allocDual policy a id now).evicted = evicted) {c0 c1 : Channel}
    (hpair : isPairOf (Arena.grantable a id evicted) c0 c1) :
    allocDual policy a id now =
      ⟨.ok, [c0, c1], evicted, Arena.grant (Arena.releaseIds a (id :: evicted)) id [c0, c1] now true, []⟩ := by
  obtain ⟨hgrant, -, -⟩ := allocDual_eq policy a id now
  rw [hevicted] at hgrant
  rw [hgrant]
  rw [← isPairOf_congr (releaseIds_busy_eq_false_iff_grantable a id evicted)] at hpair
  have hok : (grantDual (Arena.releaseIds a (id :: evicted)) evicted id now).status = .ok := by
    obtain ⟨hc0, hc1, hlt, -⟩ := hpair
    rw [grantDual_status, if_pos (two_le_length_freeSet hc0 hc1 hlt.ne)]
  obtain ⟨d0, d1, hpair', heq⟩ := grantDual_of_ok hok
  obtain ⟨rfl, rfl⟩ := isPairOf_unique hpair hpair'
  exact heq

/-- With status Ok there is such a pair. -/
theorem exists_pair_of_ok {policy : StealPolicy} {a : Arena} {id : NoteId} {now : Stamp}
    (hok : (allocDual policy a id now).status = .ok) :
    ∃ c0 c1 : Channel, isPairOf (Arena.grantable a id (allocDual policy a id now).evicted) c0 c1 := by
  obtain ⟨hgrant, -, -⟩ := allocDual_eq policy a id now
  rw [hgrant] at hok
  obtain ⟨c0, c1, hpair, -⟩ := grantDual_of_ok hok
  exact ⟨c0, c1, (isPairOf_congr (releaseIds_busy_eq_false_iff_grantable a id _)).mp hpair⟩

/-- A degraded grant is of the only grantable channel, and no other slot changes (41_allocator.md R150). -/
theorem allocDual_of_degraded {policy : StealPolicy} {a : Arena} {id : NoteId} {now : Stamp}
    (h : (allocDual policy a id now).status = .degraded) :
    ∃ c : Channel, (∀ j : Channel, Arena.grantable a id (allocDual policy a id now).evicted j ↔ j = c) ∧
      allocDual policy a id now = ⟨.degraded, [c], (allocDual policy a id now).evicted,
        a.set c { busy := true, owner := id, stamp := now, dual := true }, [.degraded id c]⟩ := by
  obtain ⟨hgrant, -, -⟩ := allocDual_eq policy a id now
  generalize (allocDual policy a id now).evicted = evicted at hgrant ⊢
  rw [hgrant] at h
  obtain ⟨c, honly, heq⟩ := grantDual_of_degraded h
  refine ⟨c, fun j => by rw [← releaseIds_busy_eq_false_iff_grantable, honly], hgrant.trans (heq.trans ?_)⟩
  congr 1
  refine arena_ext fun j => ?_
  rw [grant_singleton, set_getElem, set_getElem]
  split
  · rfl
  · next hj =>
    exact releaseIds_getElem_of_busy (Bool.eq_true_of_not_eq_false fun hfree => hj ((honly j).mp hfree).symm)

/-- A failure evicts nothing and changes no slot, since every release frees a channel (41_allocator.md R151). -/
theorem allocDual_of_fail {policy : StealPolicy} {a : Arena} {id : NoteId} {now : Stamp}
    (h : (allocDual policy a id now).status = .fail) :
    allocDual policy a id now = ⟨.fail, [], [], a, [.allocFailed id]⟩ := by
  obtain ⟨hgrant, hevicts, -⟩ := allocDual_eq policy a id now
  generalize (allocDual policy a id now).evicted = evicted at hgrant hevicts
  rw [hgrant] at h
  obtain ⟨hfull, heq⟩ := grantDual_of_fail h
  have hnone : evicted = [] := by
    cases evicted with
    | nil => rfl
    | cons v rest =>
      obtain ⟨⟨-, x, hx, hid, -⟩, -⟩ := hevicts
      obtain ⟨⟨hbusy, howner⟩, -⟩ := lowest_of_live hx
      have hkept : (Arena.releaseIds a (id :: v :: rest))[x.lowest].busy = false := by
        rw [releaseIds_cons, releaseIds_busy_eq_false_iff, howner, hid]
        exact .inr List.mem_cons_self
      rw [hfull] at hkept
      cases hkept
  subst hnone
  have hslots : Arena.releaseIds a [id] = a := arena_ext fun j => releaseIds_getElem_of_busy (hfull j)
  rw [hgrant, heq, hslots]

/-! ## When nothing is evicted -/

theorem evicted_eq_nil_of_room {policy : StealPolicy} {a : Arena} {id : NoteId} {c d : Channel}
    (hc : Arena.grantable a id [] c) (hd : Arena.grantable a id [] d) (hne : c ≠ d) (now : Stamp) :
    (allocDual policy a id now).evicted = [] := by
  obtain ⟨-, hevicts, -⟩ := allocDual_eq policy a id now
  have hroom : 2 ≤ (Arena.freeSet (Arena.releaseIds a [id])).length :=
    two_le_length_freeSet ((releaseIds_busy_eq_false_iff_grantable a id [] c).mpr hc)
      ((releaseIds_busy_eq_false_iff_grantable a id [] d).mpr hd) hne
  cases hlist : (allocDual policy a id now).evicted with
  | nil => rfl
  | cons v rest =>
    rw [hlist] at hevicts
    obtain ⟨⟨hlt, -⟩, -⟩ := hevicts
    exact absurd hlt (not_lt.mpr hroom)

/-- Under SINGLE_ONLY nothing is evicted where all allocations are dual-voice (41_allocator.md R148). -/
theorem evicted_eq_nil_of_allDual {a : Arena} {id : NoteId} (h : Arena.allDual a) (now : Stamp) :
    (allocDual .singleOnly a id now).evicted = [] := by
  obtain ⟨-, hevicts, -⟩ := allocDual_eq .singleOnly a id now
  cases hlist : (allocDual .singleOnly a id now).evicted with
  | nil => rfl
  | cons v rest =>
    rw [hlist] at hevicts
    obtain ⟨⟨-, x, hx, -, hdual, -⟩, -⟩ := hevicts
    obtain ⟨hpolicy, -⟩ := hdual (allDual_releaseIds h [id] x hx)
    cases hpolicy

theorem allDual_of_slots {a : Arena} (h : ∀ j : Channel, a[j].busy = true → a[j].dual = true) : Arena.allDual a := by
  intro x hx
  obtain ⟨⟨hbusy, -⟩, -, hdual⟩ := lowest_of_live hx
  rw [hdual, h _ hbusy]

/-! ## Grants of two -/

/-- The effect of a grant of two (41_allocator.md R153 step 4). -/
theorem exec_allocDual_of_pair {s : State} {id : NoteId} {now : Stamp} {evicted : List NoteId} {c0 c1 : Channel}
    (hevicted : (allocDual s.cfg.dualStealPolicy s.slots id now).evicted = evicted)
    (hpair : isPairOf (Arena.grantable s.slots id evicted) c0 c1) :
    exec (.allocDual id now) s = .next { s with
      slots := Vector.ofFn fun j =>
        if j = c0 ∨ j = c1 then { busy := true, owner := id, stamp := now, dual := true }
        else if s.slots[j].busy = true ∧ (s.slots[j].owner = id ∨ s.slots[j].owner ∈ evicted) then Slot.free
        else s.slots[j]
      resp := s.resp ++ [[0x00, 2, BitVec.ofNat 8 c0, BitVec.ofNat 8 c1] ++ evictedField evicted]
      port := s.port.tail } := by
  rw [exec_allocDual, allocDual_of_pair hevicted hpair, Granted.response, allocResult_eq, List.append_nil]
  congr 2
  refine eq_ofFn fun j => ?_
  rw [grant_getElem, releaseIds_getElem]
  simp only [List.mem_cons, List.not_mem_nil, or_false]

/-- Settles O23: with a pair among the free channels and its own the requester needs no eviction. -/
theorem allocDualGrantsThePreferredPair : Obligations.AllocDualGrantsThePreferredPair := by
  intro s id now c0 c1 hpair
  have hiff : ∀ c, (s.slots[c].busy = false ∨ Arena.holds s.slots id c) ↔ Arena.grantable s.slots id [] c := fun c => by
    simp only [Arena.grantable, Arena.holds, List.not_mem_nil, or_false]
  have hnone : (allocDual s.cfg.dualStealPolicy s.slots id now).evicted = [] := by
    obtain ⟨hc0, hc1, hlt, -⟩ := hpair
    exact evicted_eq_nil_of_room ((hiff c0).mp hc0) ((hiff c1).mp hc1) hlt.ne now
  rw [exec_allocDual_of_pair hnone ((isPairOf_congr hiff).mp hpair)]
  simp only [List.not_mem_nil, or_false]
  rfl

/-- Under ANY_TYPE stealing ends with two free channels, since an arena with nothing live has nine (41_allocator.md R154). -/
theorem status_of_anyType (a : Arena) (id : NoteId) (now : Stamp) : (allocDual .anyType a id now).status = .ok := by
  obtain ⟨hgrant, -, hends⟩ := allocDual_eq .anyType a id now
  generalize (allocDual .anyType a id now).evicted = evicted at hgrant hends
  have hroom : 2 ≤ (Arena.freeSet (Arena.releaseIds a (id :: evicted))).length := by
    refine hends.elim (fun h => h) fun hnone => ?_
    have hempty : Arena.live (Arena.releaseIds a (id :: evicted)) = [] :=
      List.eq_nil_iff_forall_not_mem.mpr fun x hx => absurd (hnone x hx).1 nofun
    have hfree := (live_eq_nil _).mp hempty
    exact two_le_length_freeSet (hfree 0) (hfree 1) (by decide)
  rw [hgrant, grantDual_status, if_pos hroom]

/-- Settles O25: the three ends of `grantDual`, in the arena that the evictions leave. -/
theorem anyTypeAlwaysGrantsTwoChannels : Obligations.AnyTypeAlwaysGrantsTwoChannels := by
  intro s id now
  dsimp only
  refine ⟨fun hpolicy => ?_, fun hok => ?_, fun hdegraded => ?_⟩
  · rw [hpolicy]
    exact status_of_anyType s.slots id now
  · obtain ⟨c0, c1, hpair⟩ := exists_pair_of_ok hok
    exact ⟨c0, c1, hpair, exec_allocDual_of_pair rfl hpair⟩
  · obtain ⟨c, honly, heq⟩ := allocDual_of_degraded hdegraded
    refine ⟨c, (honly c).mpr rfl, fun j => (honly j).mp, ?_⟩
    rw [exec_allocDual, Granted.response, allocResult_eq]
    generalize (allocDual s.cfg.dualStealPolicy s.slots id now).evicted = evicted at heq ⊢
    rw [heq]
    rfl

end Sys2Proof.Machine
end

section
/-! ALLOC_DUAL from arenas described by their slots: nine single-voice allocations, one free channel, none, and the counts
that decide the outcome under SINGLE_ONLY (41_allocator.md R150, R151, R153 to R156). -/

namespace Sys2Proof.Machine

/-! ## Nine single-voice allocations -/

theorem freeSet_eq_nil {a : Arena} (h : ∀ j : Channel, a[j].busy = true) : Arena.freeSet a = [] :=
  List.eq_nil_iff_forall_not_mem.mpr fun j hj =>
    Bool.false_ne_true (((mem_freeSet a j).mp hj).symm.trans (h j))

/-- While fewer than two channels are free, the next victim is the single-voice allocation at the channel that precedes all
other busy channels (41_allocator.md R141, R153 step 2). -/
theorem dualVictim_of_least {policy : StealPolicy} {a : Arena} (ha : Arena.wellShaped a) {v : Channel}
    (hbusy : a[v].busy = true) (hsingle : a[v].dual = false)
    (hleast : ∀ j : Channel, j ≠ v → a[j].busy = true → Arena.precedes a v j) {u : NoteId}
    (hu : Arena.dualVictim policy a u) : u = a[v].owner := by
  obtain ⟨-, x, hx, rfl, hdual, hmin⟩ := hu
  have hxsingle : x.isDualVoice = false := Bool.eq_false_iff.mpr fun hx' => by
    obtain ⟨-, y, hy, -, -, hydual⟩ := exists_live_of_least ha hbusy fun j hj hold => hleast j hj hold.1
    obtain ⟨-, hall⟩ := hdual hx'
    exact absurd ((hall y hy).symm.trans (hydual.trans hsingle)) nofun
  exact noteId_of_least ha hbusy hleast hx fun y hy hsame => hmin y hy (hsame.trans (hsingle.trans hxsingle.symm))

/-- Stealing that must go on begins with that victim. -/
theorem evicts_least_first {policy : StealPolicy} {a : Arena} (ha : Arena.wellShaped a) {v : Channel}
    (hbusy : a[v].busy = true) (hsingle : a[v].dual = false)
    (hleast : ∀ j : Channel, j ≠ v → a[j].busy = true → Arena.precedes a v j)
    (hroom : (Arena.freeSet a).length < 2) {vs : List NoteId} (hevicts : Arena.Evicts (Arena.dualVictim policy) a vs)
    (hends : Arena.stealingEnds policy (Arena.releaseIds a vs)) : ∃ rest, vs = a[v].owner :: rest := by
  cases vs with
  | nil =>
    rcases hends with htwo | hdual
    · exact absurd htwo (not_le.mpr hroom)
    · obtain ⟨-, y, hy, -, -, hydual⟩ := exists_live_of_least ha hbusy fun j hj hold => hleast j hj hold.1
      obtain ⟨-, hall⟩ := hdual y hy
      exact absurd (hall.symm.trans (hydual.trans hsingle)) nofun
  | cons u rest =>
    obtain ⟨hu, -⟩ := hevicts
    exact ⟨rest, by rw [dualVictim_of_least ha hbusy hsingle hleast hu]⟩

/-- The two least of nine single-voice allocations are evicted, in their order (41_allocator.md R156). -/
theorem evicted_of_two_least {policy : StealPolicy} {a : Arena} {id : NoteId} {v w : Channel}
    (hfull : ∀ j : Channel, a[j].busy = true ∧ a[j].dual = false ∧ a[j].owner ≠ id)
    (howners : ∀ i j : Channel, a[i].owner = a[j].owner → i = j) (hne : v ≠ w)
    (hv : ∀ j : Channel, j ≠ v → Arena.precedes a v j)
    (hw : ∀ j : Channel, j ≠ v → j ≠ w → Arena.precedes a w j) (now : Stamp) :
    (allocDual policy a id now).evicted = [a[v].owner, a[w].owner] := by
  simp only [forall_and] at hfull
  obtain ⟨hbusy, hsingle, hother⟩ := hfull
  have hshape := wellShaped_of_distinct_owners howners
  have hidle : Arena.idle a id := fun c hc => hother c hc.2
  obtain ⟨-, hevicts, hends⟩ := allocDual_eq policy a id now
  generalize (allocDual policy a id now).evicted = evicted at hevicts hends ⊢
  rw [release_of_idle hidle] at hevicts
  rw [releaseIds_cons, release_of_idle hidle] at hends
  have hroom : (Arena.freeSet a).length < 2 := by
    rw [freeSet_eq_nil hbusy]
    exact Nat.two_pos
  obtain ⟨rest, rfl⟩ :=
    evicts_least_first hshape (hbusy v) (hsingle v) (fun j hj _ => hv j hj) hroom hevicts hends
  have hfree : ∀ j : Channel, (Arena.release a a[v].owner)[j].busy = false ↔ j = v := fun j => by
    rw [release_busy_eq_false_iff, hbusy j, Bool.true_eq_false, false_or]
    exact ⟨fun hj => howners j v hj.2, fun hj => hj ▸ ⟨hbusy j, rfl⟩⟩
  have hkept : ∀ j : Channel, j ≠ v → (Arena.release a a[v].owner)[j] = a[j] := fun j hj =>
    releaseIds_getElem_of_busy (ids := [a[v].owner]) (Bool.eq_true_of_not_eq_false fun h => hj ((hfree j).mp h))
  have hleast : ∀ j : Channel, j ≠ w → (Arena.release a a[v].owner)[j].busy = true →
      Arena.precedes (Arena.release a a[v].owner) w j := fun j hj hjbusy => by
    have hjv : j ≠ v := fun h => Bool.false_ne_true (((hfree j).mpr h).symm.trans hjbusy)
    rw [Arena.precedes, hkept w hne.symm, hkept j hjv]
    exact hw j hjv hj
  have hroom' : (Arena.freeSet (Arena.release a a[v].owner)).length < 2 := by
    rw [length_freeSet_eq_one hfree]
    exact Nat.one_lt_two
  have hlen := length_le_two_of_evicts hevicts
  obtain ⟨-, hevicts'⟩ := hevicts
  obtain ⟨rest', rfl⟩ := evicts_least_first (wellShaped_release _ hshape) (by rw [hkept w hne.symm, hbusy])
    (by rw [hkept w hne.symm, hsingle]) hleast hroom' hevicts' hends
  obtain rfl : rest' = [] := List.eq_nil_of_length_eq_zero (by simpa using hlen)
  rw [hkept w hne.symm]

/-- Two channels are the pair of the rule where there are no others. -/
theorem isPairOf_of_two {F : Channel → Prop} {v w : Channel} (hlt : v < w) (h : ∀ j, F j ↔ j = v ∨ j = w) :
    isPairOf F v w := by
  refine ⟨(h v).mpr (.inl rfl), (h w).mpr (.inr rfl), hlt, ?_⟩
  have hge : ∀ i, F i → i = v ∨ w ≤ i := fun i hi => ((h i).mp hi).imp_right ge_of_eq
  by_cases hnext : w.val = v.val + 1
  · exact .inl ⟨hnext, fun i _ hi _ _ => (hge i hi).elim ge_of_eq hlt.le.trans⟩
  · refine .inr ⟨fun i j hi hj hij => ?_, hge⟩
    rw [Fin.lt_def] at hlt
    rcases (h i).mp hi with rfl | rfl <;> rcases (h j).mp hj with rfl | rfl <;> omega

theorem eq_min_or_eq_max_iff (v w j : Channel) : j = min v w ∨ j = max v w ↔ j = v ∨ j = w := by
  rcases le_total v w with h | h
  · rw [min_eq_left h, max_eq_right h]
  · rw [min_eq_right h, max_eq_left h, or_comm]

/-- Settles O24: once the two are evicted their channels are the only ones to grant. -/
theorem allocDualEvictsTheTwoOldestSingles : Obligations.AllocDualEvictsTheTwoOldestSingles := by
  intro s id now v w hfull howners hne hv hw
  have hevicted := evicted_of_two_least (policy := s.cfg.dualStealPolicy) hfull howners hne hv hw now
  have hmem : ∀ j : Channel, s.slots[j].owner ∈ [s.slots[v].owner, s.slots[w].owner] ↔ j = v ∨ j = w := fun j => by
    rw [List.mem_pair]
    exact or_congr ⟨howners j v, fun h => h ▸ rfl⟩ ⟨howners j w, fun h => h ▸ rfl⟩
  have hgrantable : ∀ j : Channel,
      Arena.grantable s.slots id [s.slots[v].owner, s.slots[w].owner] j ↔ j = v ∨ j = w := fun j => by
    rw [Arena.grantable, hmem, (hfull j).1]
    simp only [Bool.true_eq_false, false_or, true_and, or_iff_right (hfull j).2.2]
  have hpair := isPairOf_of_two (min_lt_max.mpr hne) fun j => (hgrantable j).trans (eq_min_or_eq_max_iff v w j).symm
  rw [exec_allocDual_of_pair hevicted hpair]
  congr 2
  refine (eq_ofFn fun j => ?_).symm
  rw [set_getElem, set_getElem]
  simp only [eq_min_or_eq_max_iff, hmem, (hfull j).1, (hfull j).2.2, true_and, false_or]
  by_cases hjv : j = v
  · simp [hjv]
  · by_cases hjw : j = w
    · simp [hjw]
    · simp [hjv, hjw, Ne.symm hjv, Ne.symm hjw]

/-! ## The counts under SINGLE_ONLY -/

theorem countP_or_of_disjoint {α : Type} (p q : α → Bool) (l : List α) (h : ∀ x, p x = true → q x = false) :
    l.countP (fun x => p x || q x) = l.countP p + l.countP q := by
  induction l with
  | nil => rfl
  | cons x l ih =>
    simp only [List.countP_cons, ih]
    cases hp : p x with
    | false => simp; omega
    | true => simp [h x hp]; omega

/-- Every slot of an identity evicted under SINGLE_ONLY from a well-shaped arena is single-voice (10_state.md R27,
41_allocator.md R148). -/
theorem dual_eq_false_of_evicted {a : Arena} (ha : Arena.wellShaped a) {vs : List NoteId}
    (hevicts : Arena.Evicts (Arena.dualVictim .singleOnly) a vs) {c : Channel} (hbusy : a[c].busy = true)
    (hmem : a[c].owner ∈ vs) : a[c].dual = false := by
  obtain ⟨pre, post, rfl⟩ := List.append_of_mem hmem
  obtain ⟨-, x, hx, hid, hdual, -⟩ := hevicts.at_split
  have hlive := ((mem_live_releaseIds a pre x).mp hx).1
  obtain ⟨-, hagree, -⟩ := alloc_of_wellShaped ha ((mem_live a x).mp hlive)
  rw [(hagree c ((mem_channels_of_live hlive c).mpr ⟨hbusy, hid.symm⟩)).2]
  exact Bool.eq_false_iff.mpr fun h => StealPolicy.noConfusion (hdual h).1

/-- In a well-shaped arena whose allocations are all dual-voice, every busy slot is. -/
theorem dual_eq_true_of_allDual {a : Arena} (ha : Arena.wellShaped a) (hdual : Arena.allDual a) {c : Channel}
    (hbusy : a[c].busy = true) : a[c].dual = true := by
  obtain ⟨x, hx, hid⟩ := exists_live_of_busy hbusy
  obtain ⟨-, hagree, -⟩ := alloc_of_wellShaped ha ((mem_live a x).mp hx)
  rw [(hagree c ((mem_channels_of_live hx c).mpr ⟨hbusy, hid.symm⟩)).2, hdual x hx]

/-- Stealing under SINGLE_ONLY frees channels of single-voice slots alone, and stops with fewer than two free only once
no such slot is left (41_allocator.md R155). -/
theorem free_of_stealing_ended {a : Arena} (ha : Arena.wellShaped a) {vs : List NoteId}
    (hevicts : Arena.Evicts (Arena.dualVictim .singleOnly) a vs)
    (hends : Arena.stealingEnds .singleOnly (Arena.releaseIds a vs)) :
    (∀ c : Channel, (Arena.releaseIds a vs)[c].busy = false → a[c].busy = false ∨ a[c].dual = false) ∧
      ((Arena.freeSet (Arena.releaseIds a vs)).length < 2 → ∀ c : Channel, a[c].busy = false ∨ a[c].dual = false →
        (Arena.releaseIds a vs)[c].busy = false) := by
  refine ⟨fun c hfree => ?_, fun hlt c hc => ?_⟩
  · rcases (releaseIds_busy_eq_false_iff a vs c).mp hfree with hbusy | hmem
    · exact .inl hbusy
    · cases hbusy : a[c].busy with
      | false => exact .inl rfl
      | true => exact .inr (dual_eq_false_of_evicted ha hevicts hbusy hmem)
  · refine Bool.eq_false_iff.mpr fun hbusy => ?_
    have hall : Arena.allDual (Arena.releaseIds a vs) := fun x hx =>
      (hends.resolve_left (not_le.mpr hlt) x hx).2
    have hkept := releaseIds_getElem_of_busy hbusy
    have hdual := dual_eq_true_of_allDual (wellShaped_releaseIds ha vs) hall hbusy
    rw [hkept] at hbusy hdual
    rcases hc with hc | hc
    · rw [hbusy] at hc; cases hc
    · rw [hdual] at hc; cases hc

/-- Once the requester's allocation is released, a slot is free or single-voice if it was free or the requester's, or
another's single-voice slot. -/
theorem free_or_single_release_iff (a : Arena) (id : NoteId) (c : Channel) :
    ((Arena.release a id)[c].busy = false ∨ (Arena.release a id)[c].dual = false) ↔
      (!a[c].busy || a[c].owner == id || (a[c].busy && a[c].owner != id && !a[c].dual)) = true := by
  rw [release_getElem_of_holds]
  split
  · next h =>
    obtain ⟨-, howner⟩ := h
    simp only [howner, beq_self_eq_true, Bool.or_true, Bool.true_or, true_or]
  · next h =>
    cases hbusy : a[c].busy with
    | false => simp
    | true =>
      have howner : a[c].owner ≠ id := fun heq => h ⟨hbusy, heq⟩
      simp [-Fin.getElem_fin, howner]

/-- Settles O26: two free channels at the end were free or single-voice before; with fewer, the free channels at the end are
exactly those that were. -/
theorem singleOnlyOutcomeIsDecidedByCounts : Obligations.SingleOnlyOutcomeIsDecidedByCounts := by
  intro a id now ha
  obtain ⟨hgrant, hevicts, hends⟩ := allocDual_eq .singleOnly a id now
  generalize (allocDual .singleOnly a id now).evicted = evicted at hgrant hevicts hends
  obtain ⟨hsound, hcomplete⟩ := free_of_stealing_ended (wellShaped_release id ha) hevicts hends
  rw [← releaseIds_cons] at hsound hcomplete
  simp only [free_or_single_release_iff] at hsound hcomplete
  have hcount : (Arena.freeSet (Arena.releaseIds a (id :: evicted))).length =
      (List.finRange 9).countP fun c => !(Arena.releaseIds a (id :: evicted))[c].busy := free_eq_countP _
  dsimp only
  rw [← countP_or_of_disjoint, hgrant, grantDual_status]
  · by_cases htwo : 2 ≤ (Arena.freeSet (Arena.releaseIds a (id :: evicted))).length
    · rw [if_pos htwo, if_pos]
      refine htwo.trans (hcount.trans_le (List.countP_mono_left fun c _ hfree => hsound c ?_))
      rwa [Bool.not_eq_true'] at hfree
    · rw [hcount.trans (List.countP_congr fun c _ => ?_)]
      rw [Bool.not_eq_true']
      exact ⟨hsound c, hcomplete (not_le.mp htwo) c⟩
  · intro c hc
    cases hbusy : a[c].busy with
    | false => rfl
    | true =>
      rw [hbusy, Bool.not_true, Bool.false_or] at hc
      rw [bne, hc]
      rfl

end Sys2Proof.Machine
end

section
/-! A dual-voice request under SINGLE_ONLY that the dual-voice notes of others hold back, by ALLOC_DUAL and by NOTE_ON
(41_allocator.md R150, R151; 42_engine.md R184, R189). -/

namespace Sys2Proof.Machine

/-! ## NOTE_ON with a second voice -/

/-- A commit, read off its plan's fields (10_state.md R40). -/
theorem commit_of_fields {s : State} {p : Plan} {slots : Arena} {keyshadow : KeyShadow} {wq : List RegWrite}
    {diag : List Diag} {resp : Response} (hslots : p.slots = slots) (hshadow : p.keyshadow = keyshadow)
    (hwq : s.wq ++ p.pending = wq) (hdiag : s.diag ++ p.diags = diag) (hresp : p.resp = resp) :
    s.commit p = { s with
      slots := slots
      keyshadow := keyshadow
      wq := wq
      diag := diag
      resp := s.resp ++ [resp]
      port := s.port.tail } := by
  subst hslots hshadow hwq hdiag hresp
  rfl

/-- The dual path of NOTE_ON asks `allocDual` (42_engine.md R184). -/
theorem noteOnGrant_of_dual (s : State) (id : NoteId) (now : Stamp) (v1 v2 : Voice) :
    noteOnGrant s id now ⟨true, v1, some v2⟩ = allocDual s.cfg.dualStealPolicy s.slots id now := rfl

/-- One voice sounded: it is programmed and keyed on (42_engine.md R184, R186). -/
theorem soundVoices_singleton (p : Plan) (cfg : Config) (note : Byte) (c : Channel) (v : Voice) :
    p.soundVoices cfg note [(c, v)] =
      { p with
        pending := p.pending ++ encodeVoice cfg.regmap c v ++ keyOnWrites cfg note (c, v)
        keyshadow := p.keyshadow.set c (keyOnByte cfg.regmap cfg.freqTable[effNote note v])
        diags := p.diags ++ fallbackDiags cfg note (c, v) } :=
  (keyOnVoice_eq cfg note (p.programVoices cfg.regmap [(c, v)]) (c, v)).trans (by
    simp [Plan.programVoices, Plan.emitAll])

/-- A NOTE_ON whose grant fails (42_engine.md R189). -/
theorem planNoteOn_of_fail {s : State} {id : NoteId} {now : Stamp} {patch : Patch} (hnote : id.note.toNat ≤ 127)
    (hfail : (noteOnGrant s id now patch).status = .fail) (velocity : Byte) :
    planNoteOn id.track id.note velocity now patch s =
      ((Plan.start s).takeGrant (noteOnGrant s id now patch)).reply (noteOnGrant s id now patch).response := by
  rw [planNoteOn, if_neg (not_lt.mpr hnote)]
  simp only [hfail]

/-- A NOTE_ON whose grant is degraded (42_engine.md R184). -/
theorem planNoteOn_of_degraded {s : State} {id : NoteId} {now : Stamp} {patch : Patch} (hnote : id.note.toNat ≤ 127)
    (hdegraded : (noteOnGrant s id now patch).status = .degraded) (velocity : Byte) :
    planNoteOn id.track id.note velocity now patch s =
      (((Plan.start s).takeGrant (noteOnGrant s id now patch)).soundVoices s.cfg id.note
        (assignVoices (noteOnGrant s id now patch).channels patch)).reply (noteOnGrant s id now patch).response := by
  rw [planNoteOn, if_neg (not_lt.mpr hnote)]
  simp only [hdegraded]

/-! ## Failure -/

/-- Nothing can be granted where every channel is another's dual-voice note (41_allocator.md R155). -/
theorem status_of_all_dual {a : Arena} {id : NoteId}
    (h : ∀ j : Channel, a[j].busy = true ∧ a[j].dual = true ∧ a[j].owner ≠ id) (now : Stamp) :
    (allocDual .singleOnly a id now).status = .fail := by
  obtain ⟨hgrant, -, -⟩ := allocDual_eq .singleOnly a id now
  rw [evicted_eq_nil_of_allDual (allDual_of_slots fun j _ => (h j).2.1) now] at hgrant
  have hidle : Arena.idle a id := fun c hc => (h c).2.2 hc.2
  rw [hgrant, grantDual_status, releaseIds_cons, release_of_idle hidle]
  simp [Arena.releaseIds, freeSet_eq_nil fun j => (h j).1]

/-- Settles O28: a failed `allocDual` answers the arena it was given, and NOTE_ON stops at its answer. -/
theorem dualRequestFailsWithoutChange : Obligations.DualRequestFailsWithoutChange := by
  intro s id now
  refine ⟨fun hfail => ?_, fun hpolicy hdual => ?_⟩
  · have heq := allocDual_of_fail hfail
    refine ⟨?_, fun velocity v1 v2 hnote => ?_⟩
    · rw [exec_allocDual, heq]
      rfl
    · have hgrant := (noteOnGrant_of_dual s id now v1 v2).trans heq
      rw [exec_eq_runPlan (i := .noteOn id.track id.note velocity now ⟨true, v1, some v2⟩) rfl,
        planNoteOn_of_fail hnote (congrArg Granted.status hgrant), hgrant, runPlan_silent _ _ rfl]
      exact congrArg _ (commit_of_fields rfl rfl (List.append_nil s.wq) rfl rfl)
  · rw [hpolicy]
    exact status_of_all_dual hdual now

/-! ## Degrade -/

/-- The one free channel is granted where every other is another's dual-voice note (41_allocator.md R150, R155). -/
theorem allocDual_of_one_free {a : Arena} {id : NoteId} {c : Channel} (hfree : a[c].busy = false)
    (hothers : ∀ j : Channel, j ≠ c → a[j].busy = true ∧ a[j].dual = true ∧ a[j].owner ≠ id) (now : Stamp) :
    allocDual .singleOnly a id now =
      ⟨.degraded, [c], [], a.set c { busy := true, owner := id, stamp := now, dual := true }, [.degraded id c]⟩ := by
  have hne : ∀ j : Channel, a[j].busy = true → j ≠ c := fun j hj heq => by
    rw [heq, hfree] at hj
    cases hj
  have hidle : Arena.idle a id := fun j hj => (hothers j (hne j hj.1)).2.2 hj.2
  have hnone := evicted_eq_nil_of_allDual (id := id) (allDual_of_slots fun j hj => (hothers j (hne j hj)).2.1) now
  have hiff : ∀ j : Channel, a[j].busy = false ↔ j = c := fun j => by
    refine ⟨fun hj => ?_, fun hj => hj ▸ hfree⟩
    by_contra hjc
    rw [(hothers j hjc).1] at hj
    cases hj
  have hdegraded : (allocDual .singleOnly a id now).status = .degraded := by
    obtain ⟨hgrant, -, -⟩ := allocDual_eq .singleOnly a id now
    rw [hgrant, grantDual_status, hnone, releaseIds_cons, release_of_idle hidle]
    simp [Arena.releaseIds, length_freeSet_eq_one hiff]
  obtain ⟨d, honly, heq⟩ := allocDual_of_degraded hdegraded
  rw [hnone] at honly heq
  obtain rfl : c = d := (honly c).mp (.inl hfree)
  exact heq

/-- Settles O27: NOTE_ON programs voice1 on the channel granted, after the grant has raised DEGRADED. -/
theorem dualRequestDegradesToVoiceOne : Obligations.DualRequestDegradesToVoiceOne := by
  intro s id now c hpolicy hfree hothers
  have heq := allocDual_of_one_free hfree hothers now
  rw [← hpolicy] at heq
  refine ⟨?_, fun velocity v1 v2 hnote hroom => ?_⟩
  · rw [exec_allocDual, heq]
    rfl
  · have hgrant := (noteOnGrant_of_dual s id now v1 v2).trans heq
    have hplan := planNoteOn_of_degraded hnote (congrArg Granted.status hgrant) velocity
    rw [hgrant, show assignVoices [c] ⟨true, v1, some v2⟩ = [(c, v1)] from rfl, soundVoices_singleton] at hplan
    rw [exec_eq_runPlan (i := .noteOn id.track id.note velocity now ⟨true, v1, some v2⟩) rfl, hplan,
      runPlan_admitted _ _ (.inr hroom)]
    exact congrArg _ (commit_of_fields rfl rfl (List.append_assoc ..).symm (List.append_assoc ..).symm rfl)

end Sys2Proof.Machine
end

section
/-! Key writes and the key shadow (42_engine.md R180 to R182, R201, R210): what a key-on and a key-off write with the default
register map, and the shadow as the mirror of the last committed key byte. -/

namespace Sys2Proof.Machine

/-! ## The key bytes in arithmetic, in the default register map -/

/-- The key byte of a key-on is its three fields added up (42_engine.md R180). -/
theorem toNat_keyOnByte_default (e : FreqEntry) :
    (keyOnByte regmapDefault e).toNat = 32 + 4 * e.block.toNat + e.fnum.toNat / 256 := by
  have hblock : (e.block.setWidth 8 <<< 2).toNat = 4 * e.block.toNat := by
    rw [BitVec.toNat_shiftLeft, BitVec.toNat_setWidth, Nat.shiftLeft_eq]
    omega
  have hhigh : ((e.fnum.extractLsb' 8 2).setWidth 8).toNat = e.fnum.toNat / 256 := by
    rw [BitVec.toNat_setWidth, BitVec.extractLsb'_toNat, Nat.shiftRight_eq_div_pow]
    omega
  have hupper : (32#8 ||| e.block.setWidth 8 <<< 2).toNat = 32 + 4 * e.block.toNat := by
    rw [toNat_or_of_dvd_of_lt (n := 5) (by decide) (by omega), hblock]
    rfl
  change (32#8 ||| e.block.setWidth 8 <<< 2 ||| (e.fnum.extractLsb' 8 2).setWidth 8 <<< 0).toNat = _
  rw [BitVec.shiftLeft_zero, toNat_or_of_dvd_of_lt (n := 2) (by omega) (by omega), hupper, hhigh]

/-- A key-on sets bit 5 and leaves the bits above it clear (10_state.md R30). -/
theorem keyOnByte_default_bits (e : FreqEntry) :
    (keyOnByte regmapDefault e).getLsbD 5 = true ∧ (keyOnByte regmapDefault e).getLsbD 6 = false ∧
      (keyOnByte regmapDefault e).getLsbD 7 = false := by
  have hvalue := toNat_keyOnByte_default e
  have hblock := e.block.isLt
  have hfnum := e.fnum.isLt
  simp only [BitVec.getLsbD, Nat.testBit_eq_decide_div_mod_eq, decide_eq_true_eq, decide_eq_false_iff_not]
  omega

/-- The F-number low byte (42_engine.md R180). -/
theorem fnumLoByte_eq (e : FreqEntry) : fnumLoByte e = BitVec.ofNat 8 (e.fnum.toNat % 256) := by
  apply BitVec.eq_of_toNat_eq
  rw [fnumLoByte, BitVec.extractLsb'_toNat, BitVec.toNat_ofNat, Nat.shiftRight_zero]
  omega

/-- A key-off clears bit 5 and no other (42_engine.md R181, R182). -/
theorem keyOffByte_default_getLsbD (shadow : Byte) (i : Nat) :
    (keyOffByte regmapDefault shadow).getLsbD i = (shadow.getLsbD i && decide (i ≠ 5)) := by
  have hmask : keyOnMask regmapDefault = BitVec.twoPow 8 5 := rfl
  rw [keyOffByte, hmask, BitVec.getLsbD_and, BitVec.getLsbD_not, BitVec.getLsbD_twoPow]
  by_cases hi : i < 8
  · simp [hi, eq_comm]
  · simp [BitVec.getLsbD_of_ge shadow i (by omega)]

/-! ## keyOn and keyOff -/

theorem shadow_set_getElem (k : KeyShadow) (c d : Channel) (v : Byte) : (k.set c v)[d] = if c = d then v else k[d] := by
  simp [Vector.getElem_set, Fin.ext_iff]

/-- `keyOn` sets the shadow of its channel alone (42_engine.md R180). -/
theorem keyOn_shadow (p : Plan) (m : RegMap) (c d : Channel) (e : FreqEntry) :
    (p.keyOn m c e).keyshadow[d] = if c = d then keyOnByte m e else p.keyshadow[d] :=
  shadow_set_getElem p.keyshadow c d _

/-- `keyOff` sets the shadow of its channel alone (42_engine.md R181). -/
theorem keyOff_shadow (p : Plan) (m : RegMap) (c d : Channel) :
    (p.keyOff m c).keyshadow[d] = if c = d then keyOffByte m p.keyshadow[c] else p.keyshadow[d] :=
  shadow_set_getElem p.keyshadow c d _

/-- Settles O13: the bytes of the two operations bit by bit, at the shadow of the channel and at any other. -/
theorem keyWritesSetTheShadow : Obligations.KeyWritesSetTheShadow := by
  intro p c e
  have hon : (p.keyOn regmapDefault c e).keyshadow[c] = keyOnByte regmapDefault e := by rw [keyOn_shadow, if_pos rfl]
  have hoff : (p.keyOff regmapDefault c).keyshadow[c] = keyOffByte regmapDefault p.keyshadow[c] := by
    rw [keyOff_shadow, if_pos rfl]
  obtain ⟨-, hsix, hseven⟩ := keyOnByte_default_bits e
  dsimp only
  rw [hon, hoff]
  refine ⟨toNat_keyOnByte_default e, hsix, hseven, ?_, ?_, fun i hi => ?_, rfl, fun hclear => ?_, fun d hd => ?_⟩
  · rw [← fnumLoByte_eq]
    exact List.append_assoc p.pending [_] [_]
  · exact (keyOffByte_default_getLsbD _ 5).trans (Bool.and_false _)
  · simp [keyOffByte_default_getLsbD, hi]
  · refine BitVec.eq_of_getLsbD_eq fun i _ => ?_
    rw [keyOffByte_default_getLsbD]
    by_cases hi : i = 5
    · rw [hi, hclear, Bool.false_and]
    · simp [hi]
  · rw [keyOn_shadow, keyOff_shadow, if_neg hd.symm, if_neg hd.symm]
    exact ⟨rfl, rfl⟩

/-! ## The last write to an address -/

/-- A later write hides the earlier ones. -/
theorem lastWriteTo_append (addr : Addr) (ws vs : List RegWrite) :
    lastWriteTo addr (ws ++ vs) = (lastWriteTo addr vs).or (lastWriteTo addr ws) := by
  induction ws with
  | nil => simp [lastWriteTo]
  | cons w ws ih =>
    rw [List.cons_append, lastWriteTo, lastWriteTo, ih]
    cases lastWriteTo addr vs <;> rfl

theorem lastWriteTo_singleton (addr : Addr) (w : RegWrite) :
    lastWriteTo addr [w] = if w.addr = addr then some w.val else none := rfl

theorem lastWriteTo_eq_none {addr : Addr} {ws : List RegWrite} (h : ∀ w ∈ ws, w.addr ≠ addr) :
    lastWriteTo addr ws = none := by
  induction ws with
  | nil => rfl
  | cons w ws ih =>
    obtain ⟨hw, hws⟩ := List.forall_mem_cons.mp h
    rw [lastWriteTo, ih hws, if_neg hw]

/-! ## The shadow of a command -/

/-- The key shadow of a command's working copy is the last value it has written to each key byte, and `k` where it has
written none (42_engine.md R210). -/
def Plan.mirrors (k : KeyShadow) (p : Plan) : Prop :=
  ∀ c : Channel, p.keyshadow[c] = (lastWriteTo (keyAddr regmapDefault c) p.pending).getD k[c]

/-- The invariant of the state is kept by the commit of such a command. -/
theorem shadowMirrors_commit {s : State} {p : Plan} (hmap : s.cfg.regmap = regmapDefault)
    (hs : State.shadowMirrors s) (hp : Plan.mirrors s.keyshadow p) : State.shadowMirrors (s.commit p) := by
  intro c
  have hc := hs c
  rw [hmap] at hc
  rw [commit_committed, commit_cfg, hmap, lastWriteTo_append, Option.getD_or, ← hc]
  exact hp c

theorem start_mirrors (s : State) : Plan.mirrors s.keyshadow (Plan.start s) := fun _ => rfl

/-- Writes to other registers leave the mirror. -/
theorem emitAll_mirrors {k : KeyShadow} {p : Plan} (hp : Plan.mirrors k p) {ws : List RegWrite}
    (h : ∀ w ∈ ws, ∀ c : Channel, w.addr ≠ keyAddr regmapDefault c) : Plan.mirrors k (p.emitAll ws) := by
  intro c
  rw [emitAll_pending, lastWriteTo_append, lastWriteTo_eq_none fun w hw => h w hw c, Option.none_or]
  exact hp c

theorem keyAddr_default_inj {c d : Channel} (h : keyAddr regmapDefault c = keyAddr regmapDefault d) : c = d := by
  have haddr : ∀ j : Channel, (keyAddr regmapDefault j).toNat = 0xB0 + j.val := toNat_channelAddr (by decide)
  have heq := congrArg BitVec.toNat h
  rw [haddr, haddr] at heq
  exact Fin.ext (by omega)

/-- A key write sets the shadow of its channel and is the last write to its key byte. -/
theorem emitKey_mirrors {k : KeyShadow} {p : Plan} (hp : Plan.mirrors k p) (c : Channel) (v : Byte) :
    Plan.mirrors k (p.emitKey regmapDefault c v) := by
  intro d
  rw [emitKey_keyshadow, shadow_set_getElem, emitKey_pending, lastWriteTo_append, lastWriteTo_singleton]
  by_cases hcd : c = d
  · simp [hcd]
  · rw [if_neg hcd, if_neg fun heq => hcd (keyAddr_default_inj heq), Option.none_or]
    exact hp d

/-- No F-number byte is a key byte (30_encoding.md R101). -/
theorem keyOn_mirrors {k : KeyShadow} {p : Plan} (hp : Plan.mirrors k p) (c : Channel) (e : FreqEntry) :
    Plan.mirrors k (p.keyOn regmapDefault c e) := by
  refine emitKey_mirrors (emitAll_mirrors hp (ws := [_]) fun w hw d heq => ?_) c _
  obtain rfl := List.mem_singleton.mp hw
  have hlo : (channelAddr 0xA0 c).toNat = 0xA0 + c.val := toNat_channelAddr (by decide) c
  have hkey : (channelAddr 0xB0 d).toNat = 0xB0 + d.val := toNat_channelAddr (by decide) d
  have hnat : (channelAddr 0xA0 c).toNat = (channelAddr 0xB0 d).toNat := congrArg BitVec.toNat heq
  omega

theorem keyOffAll_mirrors {k : KeyShadow} (cs : List Channel) {p : Plan} (hp : Plan.mirrors k p) :
    Plan.mirrors k (p.keyOffAll regmapDefault cs) := by
  induction cs generalizing p with
  | nil => exact hp
  | cons c cs ih => exact ih (emitKey_mirrors hp c _)

theorem keyOnVoice_mirrors {k : KeyShadow} {cfg : Config} (hmap : cfg.regmap = regmapDefault) (note : Byte) {p : Plan}
    (hp : Plan.mirrors k p) (cv : Channel × Voice) : Plan.mirrors k (Plan.keyOnVoice cfg note p cv) := by
  rw [Plan.keyOnVoice, hmap]
  refine keyOn_mirrors ?_ _ _
  split
  · exact hp
  · exact hp

theorem keyOnVoices_mirrors {k : KeyShadow} {cfg : Config} (hmap : cfg.regmap = regmapDefault) (note : Byte)
    (vs : List (Channel × Voice)) {p : Plan} (hp : Plan.mirrors k p) :
    Plan.mirrors k (vs.foldl (Plan.keyOnVoice cfg note) p) := by
  induction vs generalizing p with
  | nil => exact hp
  | cons cv vs ih => exact ih (keyOnVoice_mirrors hmap note hp cv)

theorem encodeVoice_addr_ne_keyAddr {c : Channel} {v : Voice} {w : RegWrite} (h : w ∈ encodeVoice regmapDefault c v)
    (d : Channel) : w.addr ≠ keyAddr regmapDefault d := encodeVoice_addr_ne_channelAddr h (.inr rfl) d

/-- Programming the voices writes no key byte, keying them on mirrors (42_engine.md R184). -/
theorem soundVoices_mirrors {k : KeyShadow} {cfg : Config} (hmap : cfg.regmap = regmapDefault) (note : Byte)
    (vs : List (Channel × Voice)) {p : Plan} (hp : Plan.mirrors k p) :
    Plan.mirrors k (p.soundVoices cfg note vs) := by
  refine keyOnVoices_mirrors hmap note vs (emitAll_mirrors hp fun w hw d => ?_)
  rw [hmap] at hw
  obtain ⟨cv, -, hcv⟩ := List.mem_flatMap.mp hw
  exact encodeVoice_addr_ne_keyAddr hcv d

/-- With the default register map, every command mirrors its key writes (42_engine.md R201, R210). -/
theorem plan_mirrors {i : Instr} {s : State} {p : Plan} (hmap : s.cfg.regmap = regmapDefault)
    (h : Instr.plan i s = some p) : Plan.mirrors s.keyshadow p := by
  cases i
  case render => cases h
  all_goals injection h with h; subst h
  case noteOn track note velocity now patch =>
    unfold planNoteOn
    split
    · exact start_mirrors s
    · dsimp only
      split
      case h_1 => exact start_mirrors s
      all_goals exact soundVoices_mirrors hmap note _ (start_mirrors s)
  case noteOff track note =>
    rw [planNoteOff, hmap]
    split
    · exact start_mirrors s
    · exact keyOffAll_mirrors _ (start_mirrors s)
  case allNotesOff =>
    rw [planAllNotesOff, hmap]
    exact keyOffAll_mirrors channels (start_mirrors s)
  case loadPatch ch patch =>
    rw [planLoadPatch, hmap]
    split
    · exact start_mirrors s
    · exact emitAll_mirrors (start_mirrors s) fun _ hw => encodeVoice_addr_ne_keyAddr hw
  all_goals exact start_mirrors s

/-- Settles O57: a commit adds the writes of one command, which its shadow mirrors; a drain moves committed writes, and no
other step touches the shadow. -/
theorem stepKeepsTheShadowAMirror : Obligations.StepKeepsTheShadowAMirror := by
  intro s t hmap hs hstep
  rcases step_cases hstep with rfl | rfl | ⟨packet, rest, p, -, hplan, -, rfl⟩
  · exact hs
  · have hcommitted := renderWith_committed Config.chipGenerate s.takeTurn
    obtain ⟨h, l, r, e⟩ := renderWith_eq Config.chipGenerate s.takeTurn
    intro c
    rw [hcommitted, e]
    exact hs c
  · exact shadowMirrors_commit (s := s.takeTurn) hmap hs (plan_mirrors (s := s.takeTurn) hmap hplan)

end Sys2Proof.Machine
end

section
/-! The frequency table and the effective note (42_engine.md R190 to R193). The formula is compared with integers after both
sides have been raised to the twelfth power, which the model's `twiceXBelow` does. -/

namespace Sys2Proof

/-- `x` of the frequency formula, over the real numbers (42_engine.md R191). -/
noncomputable def realFnum (clock e b : ℕ) : ℝ := 440 * 2 ^ (((e : ℝ) - 69) / 12) * 2 ^ (20 - b) / clock

theorem realFnum_nonneg (clock e b : ℕ) : 0 ≤ realFnum clock e b := by
  unfold realFnum
  positivity

/-- A twelfth of an octave, twelve times, is an octave. -/
theorem semitones_pow_twelve (e : ℕ) : ((2 : ℝ) ^ (((e : ℝ) - 69) / 12)) ^ 12 * 2 ^ 69 = 2 ^ e := by
  have hoctave : ((2 : ℝ) ^ (((e : ℝ) - 69) / 12)) ^ 12 = 2 ^ ((e : ℝ) - 69) := by
    rw [← Real.rpow_natCast, ← Real.rpow_mul (by norm_num)]
    congr 1
    push_cast
    ring
  calc ((2 : ℝ) ^ (((e : ℝ) - 69) / 12)) ^ 12 * 2 ^ 69
      = 2 ^ ((e : ℝ) - 69) * 2 ^ (69 : ℝ) := by rw [hoctave]; norm_num
    _ = 2 ^ e := by rw [← Real.rpow_add (by norm_num), sub_add_cancel, Real.rpow_natCast]

/-- The twelfth power of `2x`, cleared of its denominators, is an integer. -/
theorem two_realFnum_pow_twelve {clock : ℕ} (hclock : 0 < clock) (e b : ℕ) :
    (2 * realFnum clock e b) ^ 12 * ((clock : ℝ) ^ 12 * 2 ^ 69) = 2 ^ 12 * 440 ^ 12 * 2 ^ (e + 12 * (20 - b)) := by
  have hne : (clock : ℝ) ^ 12 ≠ 0 := by positivity
  rw [pow_add, ← semitones_pow_twelve e, Nat.mul_comm, pow_mul, realFnum]
  generalize (2 : ℝ) ^ (((e : ℝ) - 69) / 12) = semitones
  generalize (2 : ℝ) ^ (20 - b) = octaves
  rw [mul_div_assoc', div_pow, div_mul_eq_mul_div, div_eq_iff hne]
  ring

/-- The model's integer comparison decides the real one (42_engine.md R192). -/
theorem twiceXBelow_iff {clock : ℕ} (hclock : 0 < clock) (e b k : ℕ) :
    twiceXBelow clock e b k = true ↔ 2 * realFnum clock e b < k := by
  have hscale : (0 : ℝ) < (clock : ℝ) ^ 12 * 2 ^ 69 := by positivity
  calc twiceXBelow clock e b k = true
      ↔ 2 ^ 12 * 440 ^ 12 * 2 ^ (e + 12 * (20 - b)) < k ^ 12 * clock ^ 12 * 2 ^ 69 := decide_eq_true_iff
    _ ↔ (2 : ℝ) ^ 12 * 440 ^ 12 * 2 ^ (e + 12 * (20 - b)) < (k : ℝ) ^ 12 * (clock : ℝ) ^ 12 * 2 ^ 69 := by
      exact_mod_cast Iff.rfl
    _ ↔ (2 * realFnum clock e b) ^ 12 < (k : ℝ) ^ 12 := by
      rw [← two_realFnum_pow_twelve hclock, mul_assoc, mul_lt_mul_iff_left₀ hscale]
    _ ↔ 2 * realFnum clock e b < k :=
      pow_lt_pow_iff_left₀ (mul_nonneg two_pos.le (realFnum_nonneg clock e b)) k.cast_nonneg (by decide)

/-- A block does not fit: its rounded F-number needs more than ten bits (42_engine.md R191). -/
theorem round_realFnum_gt {clock : ℕ} (hclock : 0 < clock) {e b : ℕ} (h : twiceXBelow clock e b 2047 = false) :
    1023 < ⌊realFnum clock e b + 1 / 2⌋ := by
  rw [← Bool.not_eq_true, twiceXBelow_iff hclock, not_lt] at h
  refine Int.add_one_le_iff.mp (Int.le_floor.mpr ?_)
  push_cast at h ⊢
  linarith

/-- The rounded F-number is `f`: `2x` lies between the odd numbers about `2f` (42_engine.md R192). -/
theorem round_realFnum_eq {clock : ℕ} (hclock : 0 < clock) {e b f : ℕ} (hpos : 0 < f)
    (hlow : twiceXBelow clock e b (2 * f - 1) = false) (hhigh : twiceXBelow clock e b (2 * f + 1) = true) :
    (f : ℤ) = ⌊realFnum clock e b + 1 / 2⌋ := by
  rw [← Bool.not_eq_true, twiceXBelow_iff hclock, not_lt, Nat.cast_sub (by omega)] at hlow
  rw [twiceXBelow_iff hclock] at hhigh
  push_cast at hlow hhigh
  refine (Int.floor_eq_iff.mpr ⟨?_, ?_⟩).symm <;> push_cast <;> linarith

/-- An entry is the rounded formula at a note in the lowest block that fits, or the fallback when none does, in the integer
comparisons of the model (42_engine.md R191). -/
def isFreqWord (clock e : ℕ) (entry : FreqEntry) : Bool :=
  if entry.fallback then
    decide (entry.block = 0 ∧ entry.fnum = 0 ∧ ∀ b : ℕ, b < 8 → twiceXBelow clock e b 2047 = false)
  else
    decide (0 < entry.fnum.toNat ∧ twiceXBelow clock e entry.block.toNat (2 * entry.fnum.toNat - 1) = false ∧
      twiceXBelow clock e entry.block.toNat (2 * entry.fnum.toNat + 1) = true ∧
      ∀ b < entry.block.toNat, twiceXBelow clock e b 2047 = false)

/-- All 128 entries of the default table, in integers (42_engine.md R193). -/
theorem freqTableDefault_isFreqWord (e : Note) : isFreqWord 49716 e.val freqTableDefault[e] = true := by
  revert e
  decide +kernel

/-- Settles O15: the integer comparisons of every entry, read over the real numbers. -/
theorem freqTableIsTheFormula : Obligations.FreqTableIsTheFormula := by
  intro e
  have hclock : 0 < 49716 := by decide
  have hentry := freqTableDefault_isFreqWord e
  dsimp only
  change if freqTableDefault[e].fallback then _ ∧ _ ∧ ∀ b ≤ 7, 1023 < ⌊realFnum 49716 e.val b + 1 / 2⌋
    else _ = ⌊realFnum 49716 e.val _ + 1 / 2⌋ ∧ ∀ b < _, 1023 < ⌊realFnum 49716 e.val b + 1 / 2⌋
  unfold isFreqWord at hentry
  split at hentry
  · next hfallback =>
    obtain ⟨hblock, hfnum, hbelow⟩ := of_decide_eq_true hentry
    rw [if_pos hfallback]
    exact ⟨hblock, hfnum, fun b hb => round_realFnum_gt hclock (hbelow b (Nat.lt_succ_of_le hb))⟩
  · next hfallback =>
    obtain ⟨hpos, hlow, hhigh, hbelow⟩ := of_decide_eq_true hentry
    rw [if_neg hfallback]
    exact ⟨round_realFnum_eq hclock hpos hlow hhigh, fun b hb => round_realFnum_gt hclock (hbelow b hb)⟩

end Sys2Proof

namespace Sys2Proof.Machine

/-- Settles O14: the clamp in its three ranges. -/
theorem effectiveNoteIsClamped : Obligations.EffectiveNoteIsClamped := by
  intro note v
  have hclamp : (effNote note v).val = (min (max ((note.toNat : ℤ) + v.baseNoteOffset.toInt) 0) 127).toNat := rfl
  rw [hclamp]
  refine ⟨fun hbelow => ?_, fun habove => ?_, fun hlow hhigh => ?_⟩
  · rw [max_eq_right hbelow.le]
    rfl
  · rw [max_eq_left (by omega), min_eq_right habove.le]
    rfl
  · rw [max_eq_left hlow, min_eq_left hhigh, Int.toNat_of_nonneg hlow]

end Sys2Proof.Machine
end

section
/-! LOAD_PATCH, NOTE_OFF, ALL_NOTES_OFF, and the operands that are rejected (42_engine.md R179, R198 to R203, R207). -/

namespace Sys2Proof.Machine

/-! ## Rejected operands and LOAD_PATCH -/

/-- An aborted command leaves its record and its response, whatever the queue holds (60_exceptions.md R246). -/
theorem runPlan_abort (s : State) (d : Diag) (status : Byte) :
    runPlan s (Plan.abort s d status) = { s with
      diag := s.diag ++ [d], resp := s.resp ++ [[status]], port := s.port.tail } := by
  rw [runPlan_silent _ _ (abort_pending s d status)]
  exact commit_of_fields rfl rfl (List.append_nil s.wq) rfl rfl

theorem channelOperand_eq_none {ch : Byte} (h : 8 < ch.toNat) : channelOperand ch = none :=
  dif_neg (by omega)

theorem channelOperand_eq_some {ch : Byte} {c : Channel} (h : ch.toNat = c.val) : channelOperand ch = some c := by
  have hlt : ch.toNat < 9 := h ▸ c.isLt
  rw [channelOperand, dif_pos hlt]
  exact congrArg some (Fin.ext h)

/-- Settles O34: each of the three plans is an abort. -/
theorem outOfRangeOperandsAreRejected : Obligations.OutOfRangeOperandsAreRejected := by
  intro s track x velocity now patch
  refine ⟨fun hnote => ⟨?_, ?_⟩, fun hchannel => ?_⟩
  · rw [exec_eq_runPlan (i := .noteOn track x velocity now patch) rfl, planNoteOn, if_pos hnote, runPlan_abort]
    rfl
  · rw [exec_eq_runPlan (i := .noteOff track x) rfl, planNoteOff, if_pos hnote, runPlan_abort]
    rfl
  · rw [exec_eq_runPlan (i := .loadPatch x patch) rfl, planLoadPatch, channelOperand_eq_none hchannel]
    exact congrArg _ (runPlan_abort s _ _)

/-- Settles O43: the plan is the eleven writes of the voice and a response. -/
theorem loadPatchProgramsVoiceOne : Obligations.LoadPatchProgramsVoiceOne := by
  intro s ch c patch hch hroom
  have hplan : planLoadPatch ch patch s =
      ((Plan.start s).emitAll (encodeVoice s.cfg.regmap c patch.voice1)).reply [statusOk] := by
    rw [planLoadPatch, channelOperand_eq_some hch]
  rw [exec_eq_runPlan (i := .loadPatch ch patch) rfl, hplan, runPlan_admitted _ _ (.inr hroom)]
  exact congrArg _ (commit_of_fields rfl rfl rfl (List.append_nil s.diag) rfl)

/-! ## Key-offs -/

theorem keyshadow_eq_ofFn {k : KeyShadow} {f : Channel → Byte} (h : ∀ c : Channel, k[c] = f c) : k = Vector.ofFn f :=
  Vector.ext fun i hi => (h ⟨i, hi⟩).trans (ofFn_getElem f ⟨i, hi⟩).symm

/-- The key shadow once the channels of a list have been keyed off (42_engine.md R181). -/
def keyOffShadow (m : RegMap) (k : KeyShadow) (cs : List Channel) : KeyShadow :=
  Vector.ofFn fun c => if c ∈ cs then keyOffByte m k[c] else k[c]

theorem keyOffShadow_getElem (m : RegMap) (k : KeyShadow) (cs : List Channel) (c : Channel) :
    (keyOffShadow m k cs)[c] = if c ∈ cs then keyOffByte m k[c] else k[c] := ofFn_getElem _ c

theorem keyOffAll_keyshadow (p : Plan) (m : RegMap) {cs : List Channel} (hd : cs.Nodup) :
    (p.keyOffAll m cs).keyshadow = keyOffShadow m p.keyshadow cs := by
  obtain ⟨-, -, -, -, hshadow⟩ := keyOffAll_eq m cs hd p
  exact keyshadow_eq_ofFn hshadow

theorem keyOffAll_diags (p : Plan) (m : RegMap) {cs : List Channel} (hd : cs.Nodup) :
    (p.keyOffAll m cs).diags = p.diags := by
  obtain ⟨-, hdiags, -⟩ := keyOffAll_eq m cs hd p
  exact hdiags

/-- A command that keys off distinct channels, changes the arena and answers, when its writes are admitted
(42_engine.md R198, R202). -/
theorem runPlan_keyOffAll {s : State} {cs : List Channel} (hd : cs.Nodup)
    (hroom : cs = [] ∨ s.wq.length + cs.length ≤ s.cfg.wqDepth) (slots : Arena) (resp : Response) :
    runPlan s (({ (Plan.start s).keyOffAll s.cfg.regmap cs with slots := slots }).reply resp) = { s with
      slots := slots
      keyshadow := keyOffShadow s.cfg.regmap s.keyshadow cs
      wq := s.wq ++ cs.map fun c => ⟨keyAddr s.cfg.regmap c, keyOffByte s.cfg.regmap s.keyshadow[c]⟩
      resp := s.resp ++ [resp]
      port := s.port.tail } := by
  have hpending := keyOffAll_pending (Plan.start s) s.cfg.regmap hd
  have hdiags := keyOffAll_diags (Plan.start s) s.cfg.regmap hd
  rw [runPlan_admitted _ _ ?_]
  · refine commit_of_fields rfl (keyOffAll_keyshadow _ _ hd) (congrArg (s.wq ++ ·) hpending) ?_ rfl
    exact (congrArg (s.diag ++ ·) hdiags).trans (List.append_nil s.diag)
  · refine hroom.imp (fun hnone => ?_) fun hfits => ?_
    · subst hnone
      exact hpending
    · have hlen := length_keyOffAll_pending (Plan.start s) s.cfg.regmap hd
      rw [start_pending, List.length_nil, Nat.zero_add] at hlen
      exact (congrArg (s.wq.length + ·) hlen).trans_le hfits

/-! ## NOTE_OFF -/

/-- NOTE_OFF keys off and frees the channels its identity holds, none if it holds none (42_engine.md R198 to R200). -/
theorem exec_noteOff {s : State} {track : TrackId} {note : Byte} (hnote : note.toNat ≤ 127)
    (hroom : Arena.owned s.slots ⟨track, note⟩ = [] ∨
      s.wq.length + (Arena.owned s.slots ⟨track, note⟩).length ≤ s.cfg.wqDepth) :
    exec (.noteOff track note) s = .next { s with
      slots := Arena.release s.slots ⟨track, note⟩
      keyshadow := keyOffShadow s.cfg.regmap s.keyshadow (Arena.owned s.slots ⟨track, note⟩)
      wq := s.wq ++ (Arena.owned s.slots ⟨track, note⟩).map fun c =>
        ⟨keyAddr s.cfg.regmap c, keyOffByte s.cfg.regmap s.keyshadow[c]⟩
      resp := s.resp ++ [statusOk :: channelsPayload (Arena.owned s.slots ⟨track, note⟩)]
      port := s.port.tail } := by
  have hd := owned_nodup s.slots ⟨track, note⟩
  rw [exec_eq_runPlan (i := .noteOff track note) rfl, planNoteOff, if_neg (not_lt.mpr hnote)]
  dsimp only
  rw [keyOffAll_slots _ _ hd, runPlan_keyOffAll hd hroom, start_slots]

/-- Settles O40: `held` is the list of channels that NOTE_OFF keys off and releases. -/
theorem noteOffKeysOffItsChannels : Obligations.NoteOffKeysOffItsChannels := by
  intro s track note hnote
  dsimp only
  rw [← owned_eq_filter]
  intro hroom
  rw [exec_noteOff hnote hroom, eq_ofFn (release_getElem s.slots ⟨track, note⟩)]
  rfl

/-! ## ALL_NOTES_OFF -/

/-- Releasing every live allocation frees every busy slot, whose owner is live (42_engine.md R202). -/
theorem releaseAll_live_getElem (a : Arena) (c : Channel) :
    (releaseAll a (Arena.live a))[c] = if a[c].busy then Slot.free else a[c] := by
  have hids : releaseAll a (Arena.live a) = Arena.releaseIds a ((Arena.live a).map (·.noteId)) :=
    List.foldl_map.symm
  rw [hids, releaseIds_getElem]
  refine if_congr (and_iff_left_of_imp fun hbusy => ?_) rfl rfl
  obtain ⟨x, hx, hid⟩ := exists_live_of_busy hbusy
  exact List.mem_map.mpr ⟨x, hx, hid⟩

/-- Settles O42: the nine channels are keyed off, and the live allocations own every busy slot. -/
theorem allNotesOffKeysOffNineChannels : Obligations.AllNotesOffKeysOffNineChannels := by
  intro s hroom
  have hslots : releaseAll s.slots (Arena.live s.slots) =
      Vector.ofFn fun j => if s.slots[j].busy then Slot.free else s.slots[j] := eq_ofFn (releaseAll_live_getElem s.slots)
  have hshadow : keyOffShadow s.cfg.regmap s.keyshadow channels =
      Vector.ofFn fun j => keyOffByte s.cfg.regmap s.keyshadow[j] :=
    keyshadow_eq_ofFn fun c => by rw [keyOffShadow_getElem, if_pos (mem_channels c)]
  rw [exec_eq_runPlan (i := .allNotesOff) rfl, planAllNotesOff, keyOffAll_slots _ _ channels_nodup,
    runPlan_keyOffAll channels_nodup (.inr hroom), start_slots, hslots, hshadow, channels_eq_finRange]
  rfl

end Sys2Proof.Machine
end

section
/-! NOTE_ON (42_engine.md R183 to R189): its grant, the voices it assigns to the channels granted, and its effect as one
equation, from which the statements about it follow. -/

namespace Sys2Proof.Machine

/-! ## The grant -/

theorem eligible_iff (patch : Patch) :
    eligible patch = true ↔ patch.dualVoiceEnabled = true ∧ patch.voice2 ≠ none := by
  rw [eligible, Bool.and_eq_true, Option.isSome_iff_ne_none]

theorem noteOnGrant_of_eligible {patch : Patch} (h : eligible patch = true) (s : State) (id : NoteId) (now : Stamp) :
    noteOnGrant s id now patch = allocDual s.cfg.dualStealPolicy s.slots id now := if_pos h

/-- The single path raises no diagnostic (41_allocator.md R147). -/
theorem allocSingle_diags (a : Arena) (id : NoteId) (now : Stamp) : (allocSingle a id now).diags = [] := by
  rcases allocSingle_cases a id now with ⟨x, -, e⟩ | e
  · rw [e]
  · rcases takeLowest_cases (Arena.release a id) id now with ⟨c, rest, -, e'⟩ | ⟨v, c, rest, -, -, -, e'⟩ <;>
      rw [e, e']

theorem noteOnGrant_of_not_eligible {patch : Patch} (h : ¬eligible patch = true) (s : State) (id : NoteId)
    (now : Stamp) : noteOnGrant s id now patch = allocSingle s.slots id now := by
  obtain ⟨hok, -⟩ := singlePathNeverFails s.slots id now
  have hdiags := allocSingle_diags s.slots id now
  have hraised : singleDiags (allocSingle s.slots id now) id = (allocSingle s.slots id now).diags := by
    simp only [singleDiags, hok, hdiags]
  rw [noteOnGrant, if_neg h]
  dsimp only
  rw [hraised]

/-- A grant fails only on the dual path, with no channel (41_allocator.md R147, R151). -/
theorem noteOnGrant_of_fail {s : State} {id : NoteId} {now : Stamp} {patch : Patch}
    (h : (noteOnGrant s id now patch).status = .fail) : (noteOnGrant s id now patch).channels = [] := by
  by_cases hdual : eligible patch = true
  · rw [noteOnGrant_of_eligible hdual] at h ⊢
    rw [allocDual_of_fail h]
  · obtain ⟨hok, -⟩ := singlePathNeverFails s.slots id now
    rw [noteOnGrant_of_not_eligible hdual, hok] at h
    cases h

/-! ## How many channels are granted -/

/-- The single path grants one channel, if a single-voice allocation it keeps has one (41_allocator.md R146). -/
theorem length_allocSingle_channels {a : Arena} {id : NoteId}
    (hsingle : ∀ x, Arena.alloc a id = some x → x.isDualVoice = false → x.channels.length = 1) (now : Stamp) :
    (allocSingle a id now).channels.length = 1 := by
  by_cases h : ∃ x, Arena.alloc a id = some x ∧ x.isDualVoice = false
  · obtain ⟨x, hx, hflag⟩ := h
    rw [allocSingle_of_single hx hflag]
    exact hsingle x hx hflag
  · rw [allocSingle_of_not_single fun x hx => Bool.eq_true_of_not_eq_false fun hflag => h ⟨x, hx, hflag⟩]
    rcases takeLowest_cases (Arena.release a id) id now with ⟨c, rest, -, e⟩ | ⟨v, c, rest, -, -, -, e⟩ <;>
      simp [e]

/-- The dual path grants two channels at most (41_allocator.md R153). -/
theorem length_grantDual_channels_le (a : Arena) (evicted : List NoteId) (id : NoteId) (now : Stamp) :
    (grantDual a evicted id now).channels.length ≤ 2 := by
  unfold grantDual
  split
  · exact Nat.zero_le 2
  · exact one_le_two
  · exact length_pickPair_le _

/-- The dual path grants free channels, and changes no other slot (41_allocator.md R153). -/
theorem grantDual_of_free (a : Arena) (evicted : List NoteId) (id : NoteId) (now : Stamp) :
    (∃ dual, (grantDual a evicted id now).slots = Arena.grant a id (grantDual a evicted id now).channels now dual) ∧
      ∀ c ∈ (grantDual a evicted id now).channels, a[c].busy = false := by
  cases hstatus : (grantDual a evicted id now).status with
  | ok =>
    obtain ⟨c0, c1, ⟨hc0, hc1, -⟩, e⟩ := grantDual_of_ok hstatus
    rw [e]
    refine ⟨⟨true, rfl⟩, fun c hc => ?_⟩
    rcases List.mem_pair.mp hc with rfl | rfl
    · exact hc0
    · exact hc1
  | degraded =>
    obtain ⟨c, honly, e⟩ := grantDual_of_degraded hstatus
    rw [e]
    exact ⟨⟨true, rfl⟩, fun d hd => (honly d).mpr (List.mem_singleton.mp hd)⟩
  | fail =>
    obtain ⟨-, e⟩ := grantDual_of_fail hstatus
    rw [e]
    exact ⟨⟨true, rfl⟩, nofun⟩

/-- NOTE_ON is granted at most two channels, and two only for a patch with a second voice (42_engine.md R183). -/
theorem length_noteOnGrant_channels {s : State} {id : NoteId}
    (hsingle : ∀ x, Arena.alloc s.slots id = some x → x.isDualVoice = false → x.channels.length = 1) (now : Stamp)
    (patch : Patch) :
    (noteOnGrant s id now patch).channels.length ≤ 2 ∧
      ((noteOnGrant s id now patch).channels.length = 2 → ∃ v2, patch.voice2 = some v2) := by
  by_cases hdual : eligible patch = true
  · rw [noteOnGrant_of_eligible hdual]
    exact ⟨length_grantDual_channels_le _ _ id now, fun _ => Option.ne_none_iff_exists'.mp ((eligible_iff patch).mp hdual).2⟩
  · rw [noteOnGrant_of_not_eligible hdual, length_allocSingle_channels hsingle]
    exact ⟨one_le_two, nofun⟩

theorem length_single_of_wellShaped {a : Arena} (ha : Arena.wellShaped a) {id : NoteId} (x : Allocation)
    (hx : Arena.alloc a id = some x) (hflag : x.isDualVoice = false) : x.channels.length = 1 := by
  obtain ⟨hlen, -, htwo⟩ := alloc_of_wellShaped ha hx
  exact hlen.resolve_right fun h2 => Bool.false_ne_true (hflag.symm.trans (htwo h2))

/-! ## The voices -/

@[simp] theorem assignVoices_nil (patch : Patch) : assignVoices [] patch = [] := by
  unfold assignVoices
  cases patch.voice2 <;> rfl

@[simp] theorem assignVoices_singleton (c : Channel) (patch : Patch) : assignVoices [c] patch = [(c, patch.voice1)] := by
  unfold assignVoices
  cases patch.voice2 <;> rfl

theorem assignVoices_pair {patch : Patch} {v2 : Voice} (h : patch.voice2 = some v2) (c0 c1 : Channel) :
    assignVoices [c0, c1] patch = [(c0, patch.voice1), (c1, v2)] := by
  unfold assignVoices
  rw [h]

/-- The shadow after one voice is keyed on (42_engine.md R180). -/
def keyOnShadow (cfg : Config) (note : Byte) (k : KeyShadow) (cv : Channel × Voice) : KeyShadow :=
  k.set cv.1 (keyOnByte cfg.regmap cfg.freqTable[effNote note cv.2])

theorem keyOnVoices_keyshadow (cfg : Config) (note : Byte) (vs : List (Channel × Voice)) (p : Plan) :
    (vs.foldl (Plan.keyOnVoice cfg note) p).keyshadow = vs.foldl (keyOnShadow cfg note) p.keyshadow := by
  induction vs generalizing p with
  | nil => rfl
  | cons cv vs ih =>
    rw [List.foldl_cons, List.foldl_cons, ih, keyOnVoice_eq]
    rfl

theorem soundVoices_keyshadow (p : Plan) (cfg : Config) (note : Byte) (vs : List (Channel × Voice)) :
    (p.soundVoices cfg note vs).keyshadow = vs.foldl (keyOnShadow cfg note) p.keyshadow :=
  keyOnVoices_keyshadow cfg note vs (p.programVoices cfg.regmap vs)

theorem soundVoices_diags (p : Plan) (cfg : Config) (note : Byte) (vs : List (Channel × Voice)) :
    (p.soundVoices cfg note vs).diags = p.diags ++ vs.flatMap (fallbackDiags cfg note) := by
  obtain ⟨-, -, -, hdiags⟩ := keyOnVoices_frame cfg note vs (p.programVoices cfg.regmap vs)
  exact hdiags

theorem soundVoices_nil (p : Plan) (cfg : Config) (note : Byte) : p.soundVoices cfg note [] = p := by
  simp [Plan.soundVoices, Plan.programVoices, Plan.emitAll]

/-! ## The effect of NOTE_ON -/

/-- NOTE_ON with its note in range takes in its grant, sounds the channels granted, none if it failed, and answers
(42_engine.md R184). -/
theorem planNoteOn_of_inRange {note : Byte} (hnote : note.toNat ≤ 127) (track : TrackId) (velocity : Byte)
    (now : Stamp) (patch : Patch) (s : State) :
    let g := noteOnGrant s ⟨track, note⟩ now patch
    planNoteOn track note velocity now patch s =
      (((Plan.start s).takeGrant g).soundVoices s.cfg note (assignVoices g.channels patch)).reply g.response := by
  dsimp only
  rw [planNoteOn, if_neg (not_lt.mpr hnote)]
  dsimp only
  split
  case h_1 hfail => rw [noteOnGrant_of_fail hfail, assignVoices_nil, soundVoices_nil]
  all_goals rfl

/-- The effect of NOTE_ON, given what it is granted and the voices that makes, when thirteen writes fit for each of them
(42_engine.md R184, R186). -/
theorem exec_noteOn {s : State} {track : TrackId} {note : Byte} {now : Stamp} {patch : Patch} {g : Granted}
    {vs : List (Channel × Voice)} (hnote : note.toNat ≤ 127) (hg : noteOnGrant s ⟨track, note⟩ now patch = g)
    (hvs : assignVoices g.channels patch = vs) (hroom : s.wq.length + 13 * vs.length ≤ s.cfg.wqDepth)
    (velocity : Byte) :
    exec (.noteOn track note velocity now patch) s = .next { s with
      slots := g.slots
      keyshadow := vs.foldl (keyOnShadow s.cfg note) s.keyshadow
      wq := s.wq ++ ((vs.flatMap fun cv => encodeVoice s.cfg.regmap cv.1 cv.2) ++ vs.flatMap (keyOnWrites s.cfg note))
      diag := s.diag ++ (g.diags ++ vs.flatMap (fallbackDiags s.cfg note))
      resp := s.resp ++ [g.response]
      port := s.port.tail } := by
  have hlen := length_soundVoices_pending ((Plan.start s).takeGrant g) s.cfg note vs
  rw [takeGrant_pending, start_pending, List.length_nil, Nat.zero_add] at hlen
  have hadmits : admits s ((((Plan.start s).takeGrant g).soundVoices s.cfg note vs).reply g.response) :=
    .inr ((congrArg (s.wq.length + ·) hlen).trans_le hroom)
  rw [exec_eq_runPlan (i := .noteOn track note velocity now patch) rfl, planNoteOn_of_inRange hnote, hg, hvs,
    runPlan_admitted _ _ hadmits]
  exact congrArg _ (commit_of_fields (soundVoices_slots _ _ _ _) (soundVoices_keyshadow _ _ _ _)
    (congrArg (s.wq ++ ·) (soundVoices_pending _ _ _ _)) (congrArg (s.diag ++ ·) (soundVoices_diags _ _ _ _)) rfl)

/-- NOTE_ON granted one channel (42_engine.md R183, R184). -/
theorem exec_noteOn_of_one {s : State} {track : TrackId} {note : Byte} {now : Stamp} {patch : Patch} {g : Granted}
    {c : Channel} (hnote : note.toNat ≤ 127) (hg : noteOnGrant s ⟨track, note⟩ now patch = g)
    (hc : g.channels = [c]) (hroom : s.wq.length + 13 ≤ s.cfg.wqDepth) (velocity : Byte) :
    exec (.noteOn track note velocity now patch) s = .next { s with
      slots := g.slots
      keyshadow := keyOnShadow s.cfg note s.keyshadow (c, patch.voice1)
      wq := s.wq ++ encodeVoice s.cfg.regmap c patch.voice1 ++ keyOnWrites s.cfg note (c, patch.voice1)
      diag := s.diag ++ g.diags ++ fallbackDiags s.cfg note (c, patch.voice1)
      resp := s.resp ++ [g.response]
      port := s.port.tail } := by
  have hvs : assignVoices g.channels patch = [(c, patch.voice1)] := by rw [hc, assignVoices_singleton]
  rw [exec_noteOn hnote hg hvs hroom]
  simp only [List.flatMap_singleton, List.foldl_cons, List.foldl_nil, List.append_assoc]

/-- NOTE_ON granted two channels: both voices are programmed before either is keyed on (42_engine.md R183, R186). -/
theorem exec_noteOn_of_two {s : State} {track : TrackId} {note : Byte} {now : Stamp} {patch : Patch} {g : Granted}
    {c0 c1 : Channel} {v2 : Voice} (hnote : note.toNat ≤ 127) (hg : noteOnGrant s ⟨track, note⟩ now patch = g)
    (hc : g.channels = [c0, c1]) (hv2 : patch.voice2 = some v2) (hroom : s.wq.length + 26 ≤ s.cfg.wqDepth)
    (velocity : Byte) :
    exec (.noteOn track note velocity now patch) s = .next { s with
      slots := g.slots
      keyshadow := keyOnShadow s.cfg note (keyOnShadow s.cfg note s.keyshadow (c0, patch.voice1)) (c1, v2)
      wq := s.wq ++ encodeVoice s.cfg.regmap c0 patch.voice1 ++ encodeVoice s.cfg.regmap c1 v2 ++
        keyOnWrites s.cfg note (c0, patch.voice1) ++ keyOnWrites s.cfg note (c1, v2)
      diag := s.diag ++ g.diags ++ fallbackDiags s.cfg note (c0, patch.voice1) ++ fallbackDiags s.cfg note (c1, v2)
      resp := s.resp ++ [g.response]
      port := s.port.tail } := by
  have hvs : assignVoices g.channels patch = [(c0, patch.voice1), (c1, v2)] := by rw [hc, assignVoices_pair hv2]
  rw [exec_noteOn hnote hg hvs hroom]
  simp only [List.flatMap_cons, List.flatMap_nil, List.append_nil, List.foldl_cons, List.foldl_nil, List.append_assoc]

/-! ## Grants without an eviction -/

/-- Settles O35: an idle identity on the single path takes the lowest free channel. -/
theorem noteOnSoundsTheLowestFreeChannel : Obligations.NoteOnSoundsTheLowestFreeChannel := by
  intro s track note velocity now patch c hnote hsingle hidle hfree hlow hroom
  have hg : noteOnGrant s ⟨track, note⟩ now patch = ⟨.ok, [c], [], Arena.grant s.slots ⟨track, note⟩ [c] now false, []⟩ := by
    have hnone := (alloc_eq_none s.slots ⟨track, note⟩).mpr hidle
    rw [noteOnGrant_of_not_eligible (mt (eligible_iff patch).mp hsingle),
      allocSingle_of_not_single fun x hx => absurd (hnone.symm.trans hx) nofun, release_of_idle hidle,
      takeLowest_of_free hfree hlow]
  rw [exec_noteOn_of_one hnote hg rfl hroom, List.append_nil]
  rfl

theorem owned_eq_singleton {a : Arena} {id : NoteId} {c : Channel} (hc : Arena.holds a id c)
    (honly : ∀ j : Channel, Arena.holds a id j → j = c) : Arena.owned a id = [c] := by
  refine List.perm_singleton.mp ((List.perm_ext_iff_of_nodup (owned_nodup a id) (List.nodup_singleton c)).mpr fun j => ?_)
  rw [mem_owned, List.mem_singleton]
  exact ⟨honly j, fun hj => hj ▸ hc⟩

/-- Settles O36: the single path keeps a single-voice allocation as it is. -/
theorem noteOnRetriggerKeepsChannelAndStamp : Obligations.NoteOnRetriggerKeepsChannelAndStamp := by
  intro s track note velocity now patch c hnote hsingle hc hflag honly hroom
  have hg : noteOnGrant s ⟨track, note⟩ now patch = ⟨.ok, [c], [], s.slots, []⟩ := by
    have halloc := alloc_of_lowest hc fun j hj hold => absurd (honly j hold) hj.ne
    rw [noteOnGrant_of_not_eligible (mt (eligible_iff patch).mp hsingle), allocSingle_of_single halloc hflag,
      owned_eq_singleton hc honly]
  rw [exec_noteOn_of_one hnote hg rfl hroom, List.append_nil]
  rfl

/-- With a pair among the free channels and the requester's own, `allocDual` grants it and frees the requester's others
(41_allocator.md R149, R153). -/
theorem allocDual_of_preferred_pair {a : Arena} {id : NoteId} {c0 c1 : Channel}
    (hpair : isPairOf (fun c => a[c].busy = false ∨ Arena.holds a id c) c0 c1) (policy : StealPolicy) (now : Stamp) :
    allocDual policy a id now =
      ⟨.ok, [c0, c1], [], Arena.grant (Arena.release a id) id [c0, c1] now true, []⟩ := by
  have hiff : ∀ c, (a[c].busy = false ∨ Arena.holds a id c) ↔ Arena.grantable a id [] c := fun c => by
    simp only [Arena.grantable, Arena.holds, List.not_mem_nil, or_false]
  rw [isPairOf_congr hiff] at hpair
  have ⟨hc0, hc1, hlt, _⟩ := hpair
  exact allocDual_of_pair (evicted_eq_nil_of_room hc0 hc1 hlt.ne now) hpair

/-- Settles O37: the preferred pair is granted, and the patch has two voices for it. -/
theorem noteOnSoundsBothVoices : Obligations.NoteOnSoundsBothVoices := by
  intro s track note velocity now v1 v2 c0 c1 hnote hpair hroom
  have hg := (noteOnGrant_of_dual s ⟨track, note⟩ now v1 v2).trans
    (allocDual_of_preferred_pair hpair s.cfg.dualStealPolicy now)
  have hslots : Arena.grant (Arena.release s.slots ⟨track, note⟩) ⟨track, note⟩ [c0, c1] now true =
      Vector.ofFn fun j =>
        if j = c0 ∨ j = c1 then { busy := true, owner := ⟨track, note⟩, stamp := now, dual := true }
        else if Arena.holds s.slots ⟨track, note⟩ j then Slot.free else s.slots[j] := by
    refine eq_ofFn fun j => ?_
    rw [grant_getElem, release_getElem_of_holds]
    simp only [List.mem_cons, List.not_mem_nil, or_false]
  rw [exec_noteOn_of_two hnote hg rfl rfl hroom, List.append_nil, hslots]
  simp only [List.append_assoc]
  rfl

/-! ## Any grant -/

/-- Thirteen writes for each voice are 26 at most (00_scope.md R7). -/
theorem room_for_voices {s : State} (hroom : s.wq.length + 26 ≤ s.cfg.wqDepth) (cs : List Channel) (patch : Patch) :
    s.wq.length + 13 * (assignVoices cs patch).length ≤ s.cfg.wqDepth := by
  have hle := length_assignVoices_le cs patch
  omega

/-- Settles O38: NOTE_ON asks the same procedure as the allocator command, and sounding voices touches neither the arena nor
the response. -/
theorem noteOnAllocatesLikeTheAllocator : Obligations.NoteOnAllocatesLikeTheAllocator := by
  intro s track note velocity now patch hnote hroom
  by_cases hdual : eligible patch = true
  · have hg := noteOnGrant_of_eligible hdual s ⟨track, note⟩ now
    rw [if_pos ((eligible_iff patch).mp hdual)]
    refine ⟨_, _, exec_noteOn hnote hg rfl (room_for_voices hroom _ patch) velocity, exec_allocDual s _ now, rfl, rfl,
      rfl, ?_⟩
    exact ⟨_, List.append_assoc ..⟩
  · have hg := noteOnGrant_of_not_eligible hdual s ⟨track, note⟩ now
    rw [if_neg (mt (eligible_iff patch).mpr hdual)]
    refine ⟨_, _, exec_noteOn hnote hg rfl (room_for_voices hroom _ patch) velocity, exec_allocChannel s _ now, rfl, rfl,
      rfl, ?_⟩
    exact ⟨_, rfl⟩

/-- Settles O39: by the number of channels granted. -/
theorem noteOnProgramsWhatItIsGranted : Obligations.NoteOnProgramsWhatItIsGranted := by
  intro s track note velocity now patch hshape hnote hroom
  obtain ⟨hle, htwo⟩ := length_noteOnGrant_channels (s := s) (id := ⟨track, note⟩)
    (length_single_of_wellShaped hshape) now patch
  generalize hg : noteOnGrant s ⟨track, note⟩ now patch = g at hle htwo
  dsimp only
  have hexec := exec_noteOn hnote hg rfl (room_for_voices hroom _ patch) velocity
  refine ⟨_, hexec, rfl, hle, fun hnone => ?_, fun c hone => ?_, fun c0 c1 hpair => ?_⟩
  · simp [hnone]
  · rw [hone, assignVoices_singleton]
    exact ⟨by simp [keyOnWrites, channelAddr, keyAddr], rfl⟩
  · obtain ⟨v2, hv2⟩ := htwo (by rw [hpair]; rfl)
    rw [hpair, assignVoices_pair hv2]
    exact ⟨v2, hv2, by simp [keyOnWrites, channelAddr, keyAddr], rfl⟩

/-! ## NOTE_ON, then NOTE_OFF -/

theorem length_voiceWrites (cfg : Config) (note : Byte) (vs : List (Channel × Voice)) :
    ((vs.flatMap fun cv => encodeVoice cfg.regmap cv.1 cv.2) ++ vs.flatMap (keyOnWrites cfg note)).length =
      13 * vs.length := by
  have hlen := length_soundVoices_pending (Plan.start (State.resetWith cfg)) cfg note vs
  simpa only [soundVoices_pending, start_pending, List.nil_append, List.length_nil, Nat.zero_add] using hlen

/-- A grant to an idle identity that evicts nothing takes free channels, and changes no other slot (41_allocator.md R146,
R153). -/
theorem noteOnGrant_of_idle {s : State} {id : NoteId} {now : Stamp} {patch : Patch} (hidle : Arena.idle s.slots id)
    (hnone : (noteOnGrant s id now patch).evicted = []) :
    (∃ dual, (noteOnGrant s id now patch).slots =
      Arena.grant s.slots id (noteOnGrant s id now patch).channels now dual) ∧
      ∀ c ∈ (noteOnGrant s id now patch).channels, s.slots[c].busy = false := by
  by_cases hdual : eligible patch = true
  · rw [noteOnGrant_of_eligible hdual] at hnone ⊢
    obtain ⟨hgrant, -, -⟩ := allocDual_eq s.cfg.dualStealPolicy s.slots id now
    rw [hnone, releaseIds_cons, release_of_idle hidle] at hgrant
    rw [hgrant]
    exact grantDual_of_free s.slots [] id now
  · have hnoalloc := (alloc_eq_none s.slots id).mpr hidle
    rw [noteOnGrant_of_not_eligible hdual, allocSingle_of_not_single fun x hx => absurd (hnoalloc.symm.trans hx) nofun,
      release_of_idle hidle] at hnone ⊢
    rcases takeLowest_cases s.slots id now with ⟨c, rest, hfree, e⟩ | ⟨v, c, rest, -, -, -, e⟩ <;> rw [e] at hnone ⊢
    · refine ⟨⟨false, rfl⟩, fun d hd => ?_⟩
      obtain rfl := List.mem_singleton.mp hd
      exact (mem_freeSet s.slots d).mp (hfree ▸ List.mem_cons_self)
    · cases hnone

/-- Keying on sets bit 5 in the shadow of every voice's channel, with the default register map (42_engine.md R180). -/
theorem keyOnVoices_bit {cfg : Config} (hmap : cfg.regmap = regmapDefault) (note : Byte) (vs : List (Channel × Voice))
    (k : KeyShadow) {c : Channel} (hc : c ∈ vs.map Prod.fst ∨ k[c].getLsbD 5 = true) :
    (vs.foldl (keyOnShadow cfg note) k)[c].getLsbD 5 = true := by
  induction vs generalizing k with
  | nil => exact hc.resolve_left List.not_mem_nil
  | cons cv vs ih =>
    refine ih (keyOnShadow cfg note k cv) ?_
    rw [keyOnShadow, shadow_set_getElem, hmap]
    by_cases hcv : cv.1 = c
    · rw [if_pos hcv]
      exact .inr (keyOnByte_default_bits _).1
    · rw [if_neg hcv]
      rw [List.map_cons, List.mem_cons] at hc
      exact hc.imp_left fun h => h.resolve_left fun heq => hcv heq.symm

/-- A grant of two channels at most, with a second voice for two, gives each channel a voice (42_engine.md R183). -/
theorem assignVoices_channels {cs : List Channel} {patch : Patch} (hle : cs.length ≤ 2)
    (htwo : cs.length = 2 → ∃ v2, patch.voice2 = some v2) : (assignVoices cs patch).map Prod.fst = cs := by
  match cs with
  | [] => rw [assignVoices_nil, List.map_nil]
  | [c] => rw [assignVoices_singleton, List.map_singleton]
  | [c0, c1] =>
    obtain ⟨v2, hv2⟩ := htwo rfl
    rw [assignVoices_pair hv2]
    rfl
  | _ :: _ :: _ :: _ => simp at hle

/-- Releasing an identity undoes a grant of free, zeroed channels to it (42_engine.md R212). -/
theorem release_grant_of_free {a : Arena} {id : NoteId} {cs : List Channel} (hzero : Arena.freeZeroed a)
    (hidle : Arena.idle a id) (hfree : ∀ c ∈ cs, a[c].busy = false) (now : Stamp) (dual : Bool) :
    Arena.release (Arena.grant a id cs now dual) id = a := by
  refine arena_ext fun c => ?_
  rw [release_getElem_of_holds]
  split
  · next hc => exact (hzero c (hfree c (holds_grant hidle hc))).symm
  · next hc =>
    rw [Arena.holds, grant_getElem] at hc
    rw [grant_getElem]
    split
    · next hmem =>
      rw [if_pos hmem] at hc
      exact absurd ⟨rfl, rfl⟩ hc
    · rfl

/-- Settles O44: NOTE_ON grants free channels alone and keys each on; NOTE_OFF releases and keys off just these. -/
theorem noteOnThenNoteOffRestoresTheArena : Obligations.NoteOnThenNoteOffRestoresTheArena := by
  intro s track note velocity now patch hnote hmap hzero hidle hnone hroom
  have hnoalloc := (alloc_eq_none s.slots ⟨track, note⟩).mpr hidle
  obtain ⟨hle, htwo⟩ := length_noteOnGrant_channels (s := s)
    (fun x hx => absurd (hnoalloc.symm.trans hx) nofun) now patch
  obtain ⟨⟨dual, hslots⟩, hfree⟩ := noteOnGrant_of_idle hidle hnone
  generalize hg : noteOnGrant s ⟨track, note⟩ now patch = g at hle htwo hslots hfree
  obtain ⟨t, hon, htslots, htshadow, htwq, htcfg⟩ : ∃ t, exec (.noteOn track note velocity now patch) s = .next t ∧
      t.slots = g.slots ∧
      t.keyshadow = (assignVoices g.channels patch).foldl (keyOnShadow s.cfg note) s.keyshadow ∧
      t.wq.length = s.wq.length + 13 * (assignVoices g.channels patch).length ∧ t.cfg = s.cfg := by
    refine ⟨_, exec_noteOn hnote hg rfl (room_for_voices (by omega) _ patch) velocity, rfl, rfl, ?_, rfl⟩
    rw [List.length_append, length_voiceWrites]
  have hheld : ∀ c : Channel, Arena.holds t.slots ⟨track, note⟩ c → c ∈ g.channels := fun c hc => by
    rw [htslots, hslots] at hc
    exact holds_grant hidle hc
  have hoffroom : t.wq.length + (Arena.owned t.slots ⟨track, note⟩).length ≤ t.cfg.wqDepth := by
    have hvoices := length_assignVoices_le g.channels patch
    have howned := length_owned_le_of_holds hheld
    rw [htwq, htcfg]
    omega
  refine ⟨t, _, hon, exec_noteOff hnote (.inr hoffroom), ?_, fun c hc => ⟨?_, ?_⟩⟩
  · rw [← release_grant_of_free hzero hidle hfree now dual, ← hslots, ← htslots]
  · rw [htshadow]
    exact keyOnVoices_bit hmap note _ _ (.inl (by rw [assignVoices_channels hle htwo]; exact hheld c hc))
  · dsimp only
    rw [keyOffShadow_getElem, if_pos ((mem_owned _ _ c).mpr hc), htcfg, hmap, keyOffByte_default_getLsbD]
    exact Bool.and_false _

end Sys2Proof.Machine
end

section
/-! RENDER as one equation (43_bridge.md R218 to R224): the drain, the sizes of the generate calls, and what the buffers
hold after it. -/

namespace Sys2Proof.Machine

/-! ## The sizes of the generate calls -/

/-- The sizes of the calls RENDER's loop makes in at most the given number of turns, with `left` indices still to fill
(43_bridge.md R218). -/
def loopSizes (m : Nat) : (turns left : Nat) → List Nat
  | 0, _ => []
  | turns + 1, left => if 0 < left then min m left :: loopSizes m turns (left - min m left) else []

/-- The full chunks and the rest, by division: a buffer of `n + 1` indices holds `n / m` chunks before its last
(43_bridge.md R222). -/
theorem chunkSizes_succ (n : Nat) {m : Nat} (hm : 1 ≤ m) :
    chunkSizes (n + 1) m = List.replicate (n / m) m ++ [n % m + 1] := by
  have hfull : (n + 1 + m - 1) / m - 1 = n / m := by
    rw [Nat.add_right_comm, Nat.add_sub_cancel, Nat.add_div_right n hm, Nat.succ_sub_one]
  have hrest : n + 1 - m * (n / m) = n % m + 1 := by
    have := Nat.div_add_mod n m
    omega
  rw [chunkSizes, if_neg n.succ_ne_zero, hfull, hrest]

/-- The first chunk is as large as it may be, and the others are those of what is left (43_bridge.md R222). -/
theorem chunkSizes_eq_cons {n m : Nat} (hn : 0 < n) (hm : 1 ≤ m) :
    chunkSizes n m = min m n :: chunkSizes (n - min m n) m := by
  obtain ⟨n, rfl⟩ := Nat.exists_eq_add_one.mpr hn
  rw [chunkSizes_succ n hm]
  rcases Nat.lt_or_ge n m with hlast | hmore
  · rw [Nat.min_eq_right hlast, Nat.sub_self, Nat.div_eq_of_lt hlast, Nat.mod_eq_of_lt hlast]
    rfl
  · obtain ⟨k, rfl⟩ := Nat.exists_eq_add_of_le hmore
    have hleft : m + k + 1 - m = k + 1 := by omega
    rw [Nat.min_eq_left (by omega), hleft, chunkSizes_succ k hm, Nat.add_div_left k hm, Nat.add_mod_left]
    rfl

/-- With enough turns the loop makes the calls of R222. -/
theorem loopSizes_eq_chunkSizes {m turns left : Nat} (hm : 1 ≤ m) (hturns : left ≤ turns) :
    loopSizes m turns left = chunkSizes left m := by
  induction turns generalizing left with
  | zero =>
    obtain rfl := Nat.le_zero.mp hturns
    rfl
  | succ turns ih =>
    rw [loopSizes]
    split
    · next hleft => rw [ih (by omega), ← chunkSizes_eq_cons hleft hm]
    · next hdone =>
      obtain rfl : left = 0 := by omega
      rfl

theorem sum_chunkSizes (n : Nat) {m : Nat} (hm : 1 ≤ m) : (chunkSizes n m).sum = n := by
  cases n with
  | zero => rfl
  | succ n =>
    rw [chunkSizes_succ n hm, List.sum_append, List.sum_replicate, List.sum_singleton, smul_eq_mul, Nat.mul_comm,
      ← Nat.add_assoc, Nat.div_add_mod]

/-- RENDER calls `chipGenerate` `ceil(n / m)` times (43_bridge.md R222). -/
theorem length_chunkSizes (n : Nat) {m : Nat} (hm : 1 ≤ m) : (chunkSizes n m).length = (n + m - 1) / m := by
  cases n with
  | zero => rw [Nat.zero_add, Nat.div_eq_of_lt (Nat.sub_one_lt_of_lt hm)]; rfl
  | succ n =>
    rw [chunkSizes_succ n hm, List.length_append, List.length_replicate, List.length_singleton, Nat.add_right_comm,
      Nat.add_sub_cancel, Nat.add_div_right n hm]

theorem mem_chunkSizes_bounds {n m k : Nat} (hm : 1 ≤ m) (hk : k ∈ chunkSizes n m) : 1 ≤ k ∧ k ≤ m := by
  cases n with
  | zero => exact absurd hk List.not_mem_nil
  | succ n =>
    rw [chunkSizes_succ n hm, List.mem_append, List.mem_singleton] at hk
    rcases hk with hfull | rfl
    · rw [List.eq_of_mem_replicate hfull]
      exact ⟨hm, le_rfl⟩
    · exact ⟨Nat.le_add_left 1 _, Nat.mod_lt n hm⟩

/-! ## The sample stream -/

/-- Each call answers as many samples as it was asked for (43_bridge.md R217). -/
theorem length_sampleStream (chip : Collaborator) (history : List ChipEvent) (sizes : List Nat) :
    (sampleStream chip history sizes).length = sizes.sum := by
  induction sizes generalizing history with
  | nil => rfl
  | cons n sizes ih => rw [sampleStream, List.length_append, Vector.length_toList, ih, List.sum_cons]

theorem writeFrom_append (m : Memory) (i : Nat) (xs ys : List Sample) :
    writeFrom m i (xs ++ ys) = writeFrom (writeFrom m i xs) (i + xs.length) ys := by
  induction xs generalizing m i with
  | nil => rfl
  | cons x xs ih => rw [List.cons_append, writeFrom, ih, writeFrom, List.length_cons, Nat.add_right_comm, Nat.add_assoc]

/-! ## RENDER -/

/-- The loop asks for the chunks of its turns and writes the stream they return from its offset up
(43_bridge.md R218, R224). -/
theorem renderLoop_eq (chip : Collaborator) (turns off : Nat) (s : State) :
    let sizes := loopSizes s.cfg.maxChipChunk turns (s.cfg.hostBufferLen - off)
    renderLoop chip turns off s =
      { s with
        chip := s.chip ++ sizes.map .generate
        bufL := writeFrom s.bufL off (sampleStream chip s.chip sizes)
        bufR := writeFrom s.bufR off (sampleStream chip s.chip sizes) } := by
  induction turns generalizing off s with
  | zero => simp [renderLoop, loopSizes, sampleStream, writeFrom]
  | succ turns ih =>
    rw [renderLoop, loopSizes]
    by_cases hmore : off < s.cfg.hostBufferLen
    · rw [if_pos hmore, if_pos (Nat.sub_pos_of_lt hmore), ih, renderChunk_eq]
      simp [sampleStream, writeFrom_append, Nat.sub_sub]
    · rw [if_neg hmore, if_neg (by omega)]
      simp [sampleStream, writeFrom]

/-- The sizes of the generate calls of one RENDER, whatever the parameters. -/
def renderSizes (cfg : Config) : List Nat := loopSizes cfg.maxChipChunk cfg.hostBufferLen cfg.hostBufferLen

theorem renderSizes_eq_chunkSizes {cfg : Config} (hm : 1 ≤ cfg.maxChipChunk) :
    renderSizes cfg = chunkSizes cfg.hostBufferLen cfg.maxChipChunk :=
  loopSizes_eq_chunkSizes hm le_rfl

/-- The samples RENDER takes from the collaborator, which has been given the whole queue before (43_bridge.md R224,
R225). -/
def renderStream (chip : Collaborator) (s : State) : List Sample :=
  sampleStream chip (s.chip ++ s.wq.map RegWrite.event) (renderSizes s.cfg)

/-- RENDER as one equation: the queue delivered, then the generate calls, and both buffers written from index 0 up
(43_bridge.md R218). -/
theorem exec_render (s : State) :
    exec .render s = .next { s with
      wq := []
      chipLog := s.chipLog ++ s.wq
      chip := s.chip ++ s.wq.map RegWrite.event ++ (renderSizes s.cfg).map .generate
      bufL := writeFrom s.bufL 0 (renderStream Config.chipGenerate s)
      bufR := writeFrom s.bufR 0 (renderStream Config.chipGenerate s) } := by
  rw [exec, execRender, renderWith, renderLoop_eq, drain_eq, List.drop_length]
  rfl

/-- Settles O48: the equation of RENDER, and the arithmetic of its chunks. -/
theorem renderDrainsAndThenGeneratesInChunks : Obligations.RenderDrainsAndThenGeneratesInChunks := by
  intro s
  refine ⟨_, renderSizes s.cfg, exec_render s, rfl, rfl, rfl, fun hm => ?_⟩
  rw [renderSizes_eq_chunkSizes hm]
  exact ⟨rfl, length_chunkSizes _ hm, sum_chunkSizes _ hm, fun k hk => mem_chunkSizes_bounds hm hk⟩

/-- An index within the samples written from index 0 reads the converted sample of its place. -/
theorem read_writeFrom_zero_of_getElem? (m : Memory) {xs : List Sample} {i : Nat} {x : Sample} (hx : xs[i]? = some x) :
    Memory.read (writeFrom m 0 xs) i = some (toF32 x) := by
  obtain ⟨hi, rfl⟩ := List.getElem?_eq_some_iff.mp hx
  rw [read_writeFrom, dif_pos (by omega)]
  rfl

/-- An index beyond the samples written reads as before. -/
theorem read_writeFrom_of_le (m : Memory) {xs : List Sample} {i j : Nat} (hj : i + xs.length ≤ j) :
    Memory.read (writeFrom m i xs) j = Memory.read m j := by
  rw [read_writeFrom, dif_neg (by omega)]

/-- Settles O49: the stream has as many samples as the buffer has indices, and the two buffers are written with it from
index 0 up. -/
theorem renderFillsBothBuffers : Obligations.RenderFillsBothBuffers := by
  intro s hm stream
  have hstream : renderStream Config.chipGenerate s = stream := by
    rw [renderStream, renderSizes_eq_chunkSizes hm]
    rfl
  have hlen : stream.length = s.cfg.hostBufferLen := by rw [length_sampleStream, sum_chunkSizes _ hm]
  refine ⟨_, exec_render s, hlen, fun i x hx => ?_, fun i hi => ?_, rfl⟩
  · rw [← hstream] at hx
    exact ⟨read_writeFrom_zero_of_getElem? _ hx, read_writeFrom_zero_of_getElem? _ hx⟩
  · have hbeyond : 0 + (renderStream Config.chipGenerate s).length ≤ i := by rwa [hstream, hlen, Nat.zero_add]
    exact ⟨read_writeFrom_of_le _ hbeyond, read_writeFrom_of_le _ hbeyond⟩

end Sys2Proof.Machine
end

section
/-! Nothing stops a step: every instruction, and so every step, answers a next state (60_exceptions.md R242, R245). -/

namespace Sys2Proof.Machine

/-- RENDER cannot fail, and a command's plan is committed or held (43_bridge.md R227, 60_exceptions.md R242). -/
theorem exec_total (i : Instr) (s : State) : ∃ t, exec i s = .next t := by
  by_cases hi : i = .render
  · exact ⟨_, hi ▸ exec_render s⟩
  · obtain ⟨p, hp⟩ := exists_plan hi s
    exact ⟨_, exec_eq_runPlan hp⟩

/-- Settles O4: a step is idle or runs one instruction. -/
theorem everyStepAnswersANextState : Obligations.EveryStepAnswersANextState := by
  intro s
  rw [step]
  split
  · exact ⟨_, rfl⟩
  · exact exec_total _ _

end Sys2Proof.Machine
end

section
/-! The sample conversion (43_bridge.md R220): the sign, exponent and fraction of the pattern, and the number they stand
for. -/

namespace Sys2Proof.Machine

/-- The number a normal binary32 pattern stands for, by its sign, biased exponent and fraction. -/
theorem f32Value_of_fields {x : F32} {negative : Bool} {e f : Nat} (hpos : 0 < e) (he : e < 256) (hf : f < 2 ^ 23)
    (hx : x.toNat = negative.toNat * 2 ^ 31 + e * 2 ^ 23 + f) :
    f32Value x = (if negative then -1 else 1) * (1 + (f : ℚ) / 2 ^ 23) * 2 ^ ((e : ℤ) - 127) := by
  have hbit : negative.toNat ≤ 1 := negative.toNat_le
  have hnonzero : x.toNat % 2 ^ 31 ≠ 0 := by omega
  have hfraction : x.toNat % 2 ^ 23 = f := by omega
  have hexponent : x.toNat / 2 ^ 23 % 256 = e := by omega
  have hsign : x.getLsbD 31 = negative := by
    have hmsb : x.getLsbD 31 = decide (2 ^ 31 ≤ x.toNat) := x.msb_eq_getLsbD_last.symm.trans x.msb_eq_decide
    rw [hmsb, hx]
    cases negative
    · exact decide_eq_false (by rw [Bool.toNat_false]; omega)
    · exact decide_eq_true (by rw [Bool.toNat_true]; omega)
  rw [f32Value, if_neg hnonzero, hsign, hfraction, hexponent]

/-- A magnitude has its leading one at bit 15 or below, and the rest of it, moved up, fits the fraction's 23 bits. -/
theorem magnitude_fits {m : Nat} (hm : 0 < m) (hle : m ≤ 32768) :
    m.log2 ≤ 15 ∧ 2 ^ m.log2 ≤ m ∧ (m - 2 ^ m.log2) * 2 ^ (23 - m.log2) < 2 ^ 23 := by
  have hlow : 2 ^ m.log2 ≤ m := Nat.log2_self_le hm.ne'
  have hhigh : m < 2 ^ (m.log2 + 1) := Nat.lt_log2_self
  have hlog : m.log2 ≤ 15 := Nat.le_of_lt_succ ((Nat.log2_lt hm.ne').mpr (by omega))
  refine ⟨hlog, hlow, ?_⟩
  calc (m - 2 ^ m.log2) * 2 ^ (23 - m.log2)
      < 2 ^ m.log2 * 2 ^ (23 - m.log2) := by gcongr; omega
    _ = 2 ^ 23 := by rw [← pow_add, Nat.add_sub_of_le (by omega)]

theorem toNat_f32OfMagnitude (negative : Bool) {m : Nat} (hm : 0 < m) (hle : m ≤ 32768) :
    (f32OfMagnitude negative m).toNat =
      negative.toNat * 2 ^ 31 + (m.log2 + 112) * 2 ^ 23 + (m - 2 ^ m.log2) * 2 ^ (23 - m.log2) := by
  obtain ⟨hlog, -, hfraction⟩ := magnitude_fits hm hle
  have hbit : (if negative then 2 ^ 31 else 0) = negative.toNat * 2 ^ 31 := by cases negative <;> rfl
  have := negative.toNat_le
  rw [f32OfMagnitude, hbit, BitVec.toNat_ofNat, Nat.mod_eq_of_lt (by omega)]

/-- A magnitude with its leading one at bit `k` is its significand times `2 ^ k`: nothing is rounded. -/
theorem significand_mul_pow {m k : Nat} (hk : k ≤ 23) (hlow : 2 ^ k ≤ m) :
    (1 + (((m - 2 ^ k) * 2 ^ (23 - k) : ℕ) : ℚ) / 2 ^ 23) * 2 ^ k = (m : ℚ) := by
  have hpow : (2 : ℚ) ^ (23 - k) * 2 ^ k = 2 ^ 23 := by rw [← pow_add, Nat.sub_add_cancel hk]
  calc (1 + (((m - 2 ^ k) * 2 ^ (23 - k) : ℕ) : ℚ) / 2 ^ 23) * 2 ^ k
      = 2 ^ k + ((m : ℚ) - 2 ^ k) * (2 ^ (23 - k) * 2 ^ k) / 2 ^ 23 := by push_cast [Nat.cast_sub hlow]; ring
    _ = (m : ℚ) := by rw [hpow]; ring

/-- The pattern of a magnitude stands for the magnitude over 32768 (43_bridge.md R220). -/
theorem f32Value_f32OfMagnitude (negative : Bool) {m : Nat} (hm : 0 < m) (hle : m ≤ 32768) :
    f32Value (f32OfMagnitude negative m) = (if negative then -1 else 1) * (m : ℚ) / 32768 := by
  obtain ⟨hlog, hlow, hfraction⟩ := magnitude_fits hm hle
  have hscale : (2 : ℚ) ^ (((m.log2 + 112 : ℕ) : ℤ) - 127) = 2 ^ m.log2 / 32768 := by
    rw [show ((m.log2 + 112 : ℕ) : ℤ) - 127 = (m.log2 : ℤ) - (15 : ℕ) by omega, zpow_sub₀ two_ne_zero, zpow_natCast,
      zpow_natCast]
    norm_num
  rw [f32Value_of_fields (by omega) (by omega) hfraction (toNat_f32OfMagnitude negative hm hle), hscale, mul_div_assoc',
    mul_assoc, significand_mul_pow (by omega) hlow]

/-- The conversion is exact division (43_bridge.md R220). -/
theorem f32Value_toF32 (x : Sample) : f32Value (toF32 x) = (x.toInt : ℚ) / 32768 := by
  have hlow := BitVec.le_toInt x
  have hhigh := BitVec.toInt_lt (x := x)
  rw [toF32]
  split
  · next hzero => rw [hzero, Int.cast_zero, zero_div]; rfl
  · next hnonzero =>
    rw [f32Value_f32OfMagnitude _ (Int.natAbs_pos.mpr hnonzero) (by omega), Nat.cast_natAbs]
    congr 1
    rcases lt_or_gt_of_ne hnonzero with hneg | hpos
    · simp [hneg, abs_of_neg]
    · simp [hpos.not_gt, abs_of_pos hpos]

/-- Settles O50: the value of the pattern, and the range of a signed 16-bit sample. -/
theorem sampleConversionIsExact : Obligations.SampleConversionIsExact := by
  intro x
  have hlow : (-32768 : ℚ) ≤ x.toInt := by exact_mod_cast BitVec.le_toInt x
  have hhigh : (x.toInt : ℚ) ≤ 32767 := by exact_mod_cast Int.le_of_lt_add_one (BitVec.toInt_lt (x := x))
  rw [f32Value_toF32]
  refine ⟨rfl, ?_, by linarith, by linarith⟩
  rintro rfl
  rfl

end Sys2Proof.Machine
end

section
/-! Errors are precise (60_exceptions.md R251): a command's plan either answers OK or DEGRADED, or it is one diagnostic
and one response over the state it started from. -/

namespace Sys2Proof.Machine

/-! ## Responses -/

/-- The status byte is OK or DEGRADED (30_encoding.md R91). -/
def Response.succeeds (r : Response) : Prop := r.head? = some 0x00 ∨ r.head? = some 0x01

/-- A grant answers ALLOC_FAILED only when it fails (30_encoding.md R91). -/
theorem response_succeeds {g : Granted} (h : g.status ≠ .fail) : Response.succeeds g.response := by
  unfold Granted.response
  cases hstatus : g.status with
  | ok => exact .inl rfl
  | degraded => exact .inr rfl
  | fail => exact absurd hstatus h

theorem not_succeeds_of_error {status : Byte} {payload : List Byte}
    (h : status = 0x02 ∨ status = 0x03 ∨ status = 0x04) : ¬Response.succeeds (status :: payload) := by
  simp only [Response.succeeds, List.head?_cons, Option.some_inj]
  rcases h with rfl | rfl | rfl <;> decide

/-! ## Plans that only report -/

/-- One diagnostic and one response, and nothing else; an abort is such a plan (60_exceptions.md R246). -/
def Plan.report (s : State) (d : Diag) (r : Response) : Plan := ((Plan.start s).raise d).reply r

theorem abort_eq_report (s : State) (d : Diag) (status : Byte) : Plan.abort s d status = Plan.report s d [status] := rfl

theorem commit_report (s : State) (d : Diag) (r : Response) :
    s.commit (Plan.report s d r) =
      { s with diag := s.diag ++ [d], resp := s.resp ++ [r], port := s.port.tail } :=
  commit_of_fields rfl rfl (List.append_nil s.wq) rfl rfl

/-- The plan reports an error and does nothing else, or its response is no error (60_exceptions.md R251). -/
def Plan.precise (s : State) (p : Plan) : Prop := (∃ d r, p = Plan.report s d r) ∨ Response.succeeds p.resp

theorem abort_precise (s : State) (d : Diag) (status : Byte) : Plan.precise s (Plan.abort s d status) :=
  .inl ⟨d, [status], abort_eq_report s d status⟩

/-! ## Commands -/

/-- The grant of a NOTE_ON that fails is the failure of `allocDual`, with no slot changed (41_allocator.md R147,
R151). -/
theorem noteOnGrant_eq_of_fail {s : State} {id : NoteId} {now : Stamp} {patch : Patch}
    (h : (noteOnGrant s id now patch).status = .fail) :
    noteOnGrant s id now patch = ⟨.fail, [], [], s.slots, [.allocFailed id]⟩ := by
  by_cases hdual : eligible patch = true
  · rw [noteOnGrant_of_eligible hdual] at h ⊢
    exact allocDual_of_fail h
  · obtain ⟨hok, -⟩ := singlePathNeverFails s.slots id now
    rw [noteOnGrant_of_not_eligible hdual, hok] at h
    cases h

/-- NOTE_ON rejects its note, fails to allocate, or sounds what it is granted (42_engine.md R184, R189). -/
theorem planNoteOn_precise (track : TrackId) (note velocity : Byte) (now : Stamp) (patch : Patch) (s : State) :
    Plan.precise s (planNoteOn track note velocity now patch s) := by
  by_cases hnote : noteOutOfRange note
  · rw [planNoteOn, if_pos hnote]
    exact abort_precise s _ _
  by_cases hfail : (noteOnGrant s ⟨track, note⟩ now patch).status = .fail
  · have hplan := planNoteOn_of_fail (id := ⟨track, note⟩) (not_lt.mp hnote) hfail velocity
    rw [noteOnGrant_eq_of_fail hfail] at hplan
    exact .inl ⟨.allocFailed ⟨track, note⟩, _, hplan⟩
  · rw [planNoteOn_of_inRange (not_lt.mp hnote)]
    exact .inr (response_succeeds hfail)

/-- NOTE_OFF rejects its note or answers OK (42_engine.md R198). -/
theorem planNoteOff_precise (track : TrackId) (note : Byte) (s : State) :
    Plan.precise s (planNoteOff track note s) := by
  unfold planNoteOff
  split
  · exact abort_precise s _ _
  · exact .inr (.inl rfl)

/-- LOAD_PATCH rejects its channel or answers OK (42_engine.md R207). -/
theorem planLoadPatch_precise (ch : Byte) (patch : Patch) (s : State) : Plan.precise s (planLoadPatch ch patch s) := by
  unfold planLoadPatch
  split
  · exact abort_precise s _ _
  · exact .inr (.inl rfl)

/-- ALLOC_CHANNEL never fails (41_allocator.md R147). -/
theorem planAllocChannel_precise (id : NoteId) (now : Stamp) (s : State) :
    Plan.precise s (planAllocChannel id now s) := by
  obtain ⟨hok, -⟩ := singlePathNeverFails s.slots id now
  exact .inr (response_succeeds (by simp [hok]))

/-- ALLOC_DUAL fails with no slot changed, or succeeds (41_allocator.md R151). -/
theorem planAllocDual_precise (id : NoteId) (now : Stamp) (s : State) : Plan.precise s (planAllocDual id now s) := by
  by_cases hfail : (allocDual s.cfg.dualStealPolicy s.slots id now).status = .fail
  · refine .inl ⟨.allocFailed id, (Granted.mk .fail [] [] s.slots [.allocFailed id]).response, ?_⟩
    rw [planAllocDual, allocDual_of_fail hfail]
    rfl
  · exact .inr (response_succeeds hfail)

/-- Every command reports an error and does nothing else, or answers no error. -/
theorem plan_precise {i : Instr} {s : State} {p : Plan} (h : Instr.plan i s = some p) : Plan.precise s p := by
  cases i
  case render => cases h
  all_goals injection h with h; subst h
  case noteOn track note velocity now patch => exact planNoteOn_precise track note velocity now patch s
  case noteOff track note => exact planNoteOff_precise track note s
  case loadPatch ch patch => exact planLoadPatch_precise ch patch s
  case allocChannel id now => exact planAllocChannel_precise id now s
  case allocDual id now => exact planAllocDual_precise id now s
  case illegal opcode length => exact abort_precise s _ _
  all_goals exact .inr (.inl rfl)

/-- What appends a response is the commit of a command's plan with that response; RENDER and a held command append none
(20_memory.md R63, 43_bridge.md R228). -/
theorem exists_plan_of_response {i : Instr} {s t : State} {r : Response} (h : exec i s = .next t)
    (hresp : t.resp = s.resp ++ [r]) : ∃ p, Instr.plan i s = some p ∧ p.resp = r ∧ t = s.commit p := by
  have hsilent : t.resp ≠ s.resp := fun heq => by simp [heq] at hresp
  by_cases hi : i = .render
  · rw [hi, exec_render] at h
    injection h with h
    exact absurd (congrArg State.resp h.symm) hsilent
  obtain ⟨p, hp⟩ := exists_plan hi s
  rw [exec_eq_runPlan hp] at h
  injection h with h
  rcases runPlan_cases s p with ⟨-, hcommit⟩ | ⟨-, hheld⟩
  · obtain rfl : t = s.commit p := h.symm.trans hcommit
    exact ⟨p, hp, List.singleton_inj.mp (List.append_cancel_left hresp), rfl⟩
  · exact absurd (congrArg State.resp (h.symm.trans hheld)) hsilent

/-- Settles O52: the response is that of a committed plan, which, answering an error, only reports. -/
theorem errorsArePrecise : Obligations.ErrorsArePrecise := by
  intro i s t status payload hexec hresp herror
  obtain ⟨p, hplan, hp, rfl⟩ := exists_plan_of_response hexec hresp
  rcases plan_precise hplan with ⟨d, r, rfl⟩ | hsucceeds
  · obtain rfl : r = status :: payload := hp
    exact ⟨d, commit_report s d _⟩
  · rw [hp] at hsucceeds
    exact absurd hsucceeds (not_succeeds_of_error herror)

end Sys2Proof.Machine
end
